-- ==== Sys2Proof/Word.lean ====
section
/-! DEFINITION. The words of the hardware: octets and the 16-bit host operation word (rules R8, R21). -/

namespace Sys2Proof

/-- An octet: every command byte, data byte, framing byte and framebuffer byte is one (rules R8, R63). -/
abbrev Byte := BitVec 8

/-- The host operation word `HOP`: `OPC` in bits 15..8, `IMM` in bits 7..0 (rules R21, R91). -/
abbrev HopWord := BitVec 16

end Sys2Proof
end

