-- ==== Sys2Proof/Config.lean ====
section
/-! DEFINITION. What construction fixes (rules R6, R7) and the free values of the model: the draws of rule R10. -/

namespace Sys2Proof

/-- The transport, parameter `BUS` (rule R6). -/
inductive Bus where
  | i2c
  | spi
deriving DecidableEq, Repr, Inhabited

/-- The construction parameters of rule R6. `COL_OFFSET` is the constant `colOffset`. `width` and
`height` are integers, so that the checks `W > 0` and `H > 0` of rule R300 say something. -/
structure Cfg where
  width : Int
  height : Int
  bus : Bus
  i2cAddr : Nat
  hasRes : Bool
  hasCs : Bool
  spiBaud : Nat
  extVcc : Bool
deriving DecidableEq, Repr, Inhabited

/-- `W` as a count of columns (rule R6). -/
def Cfg.W (c : Cfg) : Nat := c.width.toNat

/-- `H` as a count of rows (rule R6). -/
def Cfg.H (c : Cfg) : Nat := c.height.toNat

/-- `PAGES = H / 8` (rule R6). -/
def Cfg.PAGES (c : Cfg) : Nat := c.H / 8

/-- The number of octets of the framebuffer, `W * PAGES` (rules R35, R60). -/
def Cfg.fbSize (c : Cfg) : Nat := c.W * c.PAGES

/-- `COL_OFFSET`, the constant 2 (rules R6, R251). -/
def colOffset : Nat := 2

/-- The SPI bus configuration of rule R34: clock rate, polarity, phase. -/
structure SpiMode where
  baud : Nat
  pol : BitVec 1
  pha : BitVec 1
deriving DecidableEq, Repr, Inhabited

/-- What `PANEL_RESET` says of each panel field (rules R7, R40 to R45, R249). `none` is a draw, and so
is every display-memory byte that `pram` does not list: "every field a draw unless a claim assumes
values". Log 6. -/
structure PanelReset where
  pram : List Host.Cell
  page : Option (BitVec 4)
  col : Option (BitVec 8)
  lit : Option Bool
  inverted : Option Bool
  contrast : Option Byte
deriving DecidableEq, Repr, Inhabited

/-- The parameters the source leaves open, which the model takes as arguments (rule R7). -/
structure OpenParams where
  maxData : Nat
  panelCols : Nat
  panelPages : Nat
  panelAddr : BitVec 7
  panelMaxBaud : Nat
  panelReset : PanelReset
deriving DecidableEq, Repr, Inhabited

/-- The kind of a byte delivered to the panel (rules R47, R238). -/
inductive Kind where
  | cmd
  | data
deriving DecidableEq, Repr, Inhabited

/-- `FH_STATE` (rule R47). `dropped` is the state between two transactions, and while a transaction
addressed to another device is on the bus (rules R234, R235). Log 16. -/
inductive FhState where
  | dropped
  | ctrl
  | one (k : Kind)
  | stream (k : Kind)
deriving DecidableEq, Repr, Inhabited

/-- The causes of a TransportError (rule R270). -/
inductive Cause where
  | nack
  | timeout
  | notReady
  | other
deriving DecidableEq, Repr, Inhabited

/-- One answer of the bus environment to a fallible bus action (rule R272): success, or an error with
the length of the part of the transfer that the panel still received (rule R274). -/
inductive BusAnswer where
  | ok
  | err (c : Cause) (n : Nat)
deriving DecidableEq, Repr, Inhabited

namespace Config

/-! The free values. None has a body, so no proof can see what it is: a claim is true whatever it is.
The argument is the number of the draw, read from the counter `draws` of State (log 27). -/

/-- The answer of the bus environment once the listed answers are used up (rule R272; log 9). -/
opaque anyAnswer : Nat → BusAnswer

/-- `SPI_MODE` after a failed `SPI_CFG` (log 10). -/
opaque anySpiMode : Nat → SpiMode

/-- A byte the panel receives above its largest rate (rule R237). -/
opaque anyRxByte : Nat → Byte

/-- The column address one past 0xFF, which rule R42's 8 bits do not hold (log 11). -/
opaque anyNextCol : Nat → BitVec 8

/-- The byte a framebuffer index holds before anything has been written there (rules R35, R127; log 7). -/
opaque anyFbByte : Nat → Byte

/-- The display-memory byte at an address that nothing has written since the given draw (rules R40,
R249, R252; log 8). -/
opaque anyPram : Nat → Nat → Byte

/-- `P_PAGE` drawn (rules R249, R252). -/
opaque anyPage : Nat → BitVec 4

/-- `P_COL` drawn (rules R249, R252). -/
opaque anyCol : Nat → BitVec 8

/-- `P_ON` drawn (rules R249, R252). -/
opaque anyOn : Nat → Bool

/-- `P_INV` drawn (rules R249, R252). -/
opaque anyInv : Nat → Bool

/-- `P_CONTRAST` drawn (rules R249, R252). -/
opaque anyContrast : Nat → Byte

/-- `P_CPEND` drawn (rule R252). -/
opaque anyCpend : Nat → Bool

/-- `FH_STATE` drawn (rule R252). -/
opaque anyFh : Nat → FhState

end Config

end Sys2Proof
end

