-- ==== Sys2Proof/Syntax.lean ====
section
/-! DEFINITION. The instructions: one constructor per row of the opcode table, and the forms in which
they arrive (rules R90 to R101). -/

namespace Sys2Proof

/-- The 25 rows of the opcode table. The operand of a host operation is its `IMM` octet as it stands in
`HOP` (rule R91). `HADDR` and `HDATA` are out-of-band and stay registers (rules R22, R23). -/
inductive Instr where
  /-- RESET (R180) -/
  | reset
  /-- POWERON (R181) -/
  | poweron
  /-- POWEROFF (R182) -/
  | poweroff
  /-- SLEEP, any `v`; `v ≠ 0` is active (R183) -/
  | sleep (v : Byte)
  /-- CONTRAST (R184) -/
  | contrast (level : Byte)
  /-- INVERT, `flag` 0 or 1 (R185) -/
  | invert (flag : Byte)
  /-- SHOW (R188) -/
  | showPages
  /-- INIT (R190) -/
  | init
  /-- FILL, `value` 0 or 1 (R121) -/
  | fill (value : Byte)
  /-- WRITE_CMD (R141) -/
  | writeCmd (c : Byte)
  /-- WRITE_DATA, data in `HDATA` (R142) -/
  | writeData
  /-- FB_WRITE, index in `HADDR` (R125) -/
  | fbWrite (v : Byte)
  /-- FB_READ, index in `HADDR` (R127) -/
  | fbRead
  /-- SET_LOW_COL (R246) -/
  | setLowCol (lo : BitVec 4)
  /-- SET_HIGH_COL (R247) -/
  | setHighCol (hi : BitVec 4)
  /-- SET_CONTRAST, two successive command bytes (R241, R242) -/
  | setContrast (level : Byte)
  /-- SET_NORM_INV (R243) -/
  | setNormInv (flag : BitVec 1)
  /-- SET_DISP (R244) -/
  | setDisp (flag : BitVec 1)
  /-- SET_PAGE (R245) -/
  | setPage (p : BitVec 4)
  /-- DATA_BYTE (R240) -/
  | dataByte (d : Byte)
  /-- I2C_ADDRESS, write direction (R99, R232) -/
  | i2cAddress (a : BitVec 7)
  /-- CTL_ONE_CMD, 0x80 (R100) -/
  | ctlOneCmd
  /-- CTL_DATA_STREAM, 0x40 (R100) -/
  | ctlDataStream
  /-- CTL_CMD_STREAM, 0x00 (R100) -/
  | ctlCmdStream
  /-- CTL_ONE_DATA, 0xC0 (R100) -/
  | ctlOneData
deriving DecidableEq, Repr

/-- The place in which a byte reaches the panel; the same octet means different things in different
places (rules R90, R98, R233, R236). -/
inductive WireFormat where
  /-- I2CADDR: the first byte of an I2C transaction -/
  | addr
  /-- I2CCTL: a byte that arrives while the frame handler is in `CTRL` -/
  | ctl
  /-- PCMD and PCMD2: a byte delivered as a command -/
  | cmd
  /-- PDATA: a byte delivered as data -/
  | data
deriving DecidableEq, Repr

/-- An instruction as the hardware carries it: a host operation word, or bytes on the panel's wire. -/
inductive Encoded where
  | hop (w : HopWord)
  | wire (f : WireFormat) (bytes : List Byte)
deriving DecidableEq, Repr

/-- One panel command byte read on its own (rule R95): the second byte of SET_CONTRAST is not part of
it, because between the two bytes the panel only remembers `P_CPEND` (rule R241). -/
inductive PanelCmd where
  | lowCol (lo : BitVec 4)
  | highCol (hi : BitVec 4)
  | contrastFirst
  | normInv (flag : BitVec 1)
  | disp (flag : BitVec 1)
  | page (p : BitVec 4)
deriving DecidableEq, Repr

/-- One control byte (rule R100): `one k` with Co = 1, `stream k` with Co = 0. -/
inductive Control where
  | one (k : Kind)
  | stream (k : Kind)
deriving DecidableEq, Repr

end Sys2Proof
end

