-- ==== Sys2Proof/WellFormed.lean ====
section
/-! DEFINITION. Which instruction terms the encoding admits (rules R92, R94). -/

namespace Sys2Proof

/-- `IMM` is 0 or 1, as FILL and INVERT require: `IMM[7:1] = 0` (rule R92). -/
def isFlagImm (v : Byte) : Bool := v.extractLsb' 1 7 = 0

/-- Well-formed instructions: FILL and INVERT with a flag operand; every other operand field is used
whole (rules R92, R95, R99, R100). -/
def WellFormed : Instr → Bool
  | .reset => true
  | .poweron => true
  | .poweroff => true
  | .sleep _ => true
  | .contrast _ => true
  | .invert flag => isFlagImm flag
  | .showPages => true
  | .init => true
  | .fill value => isFlagImm value
  | .writeCmd _ => true
  | .writeData => true
  | .fbWrite _ => true
  | .fbRead => true
  | .setLowCol _ => true
  | .setHighCol _ => true
  | .setContrast _ => true
  | .setNormInv _ => true
  | .setDisp _ => true
  | .setPage _ => true
  | .dataByte _ => true
  | .i2cAddress _ => true
  | .ctlOneCmd => true
  | .ctlDataStream => true
  | .ctlCmdStream => true
  | .ctlOneData => true

end Sys2Proof
end

