-- ==== Sys2Proof/Decode.lean ====
section
/-! DEFINITION. The decoders of the host operation word and of the panel's wire, total and rejecting by
name, and after them the encoder (rules R91 to R103). -/

namespace Sys2Proof

/-- Why a word or a byte is no instruction. -/
inductive DecodeError where
  /-- `OPC` selects no operation (rule R94) -/
  | reservedOpcode
  /-- `IMM` is outside the operation's legal set (rules R92, R94) -/
  | reservedImm
  /-- a command byte of rule R97 -/
  | unmodelledCommand
  /-- a control byte with `[5:0] ≠ 0` (rule R100) -/
  | reservedControl
  /-- an address byte in the read direction (rule R232) -/
  | readDirection
  /-- the bytes end before the instruction does -/
  | truncated
  /-- bytes left over after the instruction -/
  | trailing
deriving DecidableEq, Repr

/-- `HOP[15:8]` (rule R91). -/
def opcOf (w : HopWord) : Byte := w.extractLsb' 8 8

/-- `HOP[7:0]` (rule R91). -/
def immOf (w : HopWord) : Byte := w.extractLsb' 0 8

/-- `HOP = (OPC << 8) | IMM` (rule R102). -/
def hopWord (opc imm : Byte) : HopWord := opc ++ imm

/-- An operation that takes no immediate: `IMM = 0` is required (rule R92). -/
def noImm (imm : Byte) (i : Instr) : Except DecodeError Instr :=
  if imm = 0 then .ok i else .error .reservedImm

/-- An operation whose immediate is 0 or 1: `IMM[7:1] = 0` is required (rule R92). -/
def flagImm (imm : Byte) (i : Instr) : Except DecodeError Instr :=
  if isFlagImm imm then .ok i else .error .reservedImm

/-- The host opcode map of rule R93 with the operand rules of R92; everything else is reserved (R94). -/
def decodeHop (w : HopWord) : Except DecodeError Instr :=
  let imm := immOf w
  match (opcOf w).toNat with
  | 0x01 => noImm imm .reset
  | 0x02 => noImm imm .poweron
  | 0x03 => noImm imm .poweroff
  | 0x04 => .ok (.sleep imm)
  | 0x05 => .ok (.contrast imm)
  | 0x06 => flagImm imm (.invert imm)
  | 0x07 => noImm imm .showPages
  | 0x08 => noImm imm .init
  | 0x09 => flagImm imm (.fill imm)
  | 0x0A => .ok (.writeCmd imm)
  | 0x0B => noImm imm .writeData
  | 0x0C => .ok (.fbWrite imm)
  | 0x0D => noImm imm .fbRead
  | _ => .error .reservedOpcode

/-- A panel command byte while no contrast value is awaited: the patterns of rule R95, in any order,
since they do not overlap (rule R98). `none` is a byte of rule R97. -/
def decodeCommand (b : Byte) : Option PanelCmd :=
  if b &&& 0xF0 = 0x00 then some (.lowCol (b.extractLsb' 0 4))
  else if b &&& 0xF0 = 0x10 then some (.highCol (b.extractLsb' 0 4))
  else if b = 0x81 then some .contrastFirst
  else if b &&& 0xFE = 0xA6 then some (.normInv (b.extractLsb' 0 1))
  else if b &&& 0xFE = 0xAE then some (.disp (b.extractLsb' 0 1))
  else if b &&& 0xF0 = 0xB0 then some (.page (b.extractLsb' 0 4))
  else none

/-- A control byte: bit 7 is Co, bit 6 is D/C#, bits 5..0 are 0 (rules R100, R231, R233). -/
def decodeControl (b : Byte) : Option Control :=
  if b.extractLsb' 0 6 ≠ 0 then none
  else
    let k := if b.getLsbD 6 then Kind.data else Kind.cmd
    some (if b.getLsbD 7 then .one k else .stream k)

/-- The constructor of Instr that a control byte's row is (rule R100). -/
def Control.toInstr : Control → Instr
  | .one .cmd => .ctlOneCmd
  | .one .data => .ctlOneData
  | .stream .cmd => .ctlCmdStream
  | .stream .data => .ctlDataStream

/-- A complete panel command: SET_CONTRAST takes the next command byte as its level (rules R95, R101). -/
def decodeCmdUnit (b : Byte) (rest : List Byte) : Except DecodeError (Instr × List Byte) :=
  match decodeCommand b with
  | some (.lowCol lo) => .ok (.setLowCol lo, rest)
  | some (.highCol hi) => .ok (.setHighCol hi, rest)
  | some .contrastFirst =>
    match rest with
    | level :: rest' => .ok (.setContrast level, rest')
    | [] => .error .truncated
  | some (.normInv flag) => .ok (.setNormInv flag, rest)
  | some (.disp flag) => .ok (.setDisp flag, rest)
  | some (.page p) => .ok (.setPage p, rest)
  | none => .error .unmodelledCommand

/-- The panel's decoder: the bytes in a given place, as the first instruction and the bytes left. -/
def decodeWire (f : WireFormat) (bytes : List Byte) : Except DecodeError (Instr × List Byte) :=
  match bytes with
  | [] => .error .truncated
  | b :: rest =>
    match f with
    | .addr => if b.getLsbD 0 then .error .readDirection else .ok (.i2cAddress (b.extractLsb' 1 7), rest)
    | .ctl =>
      match decodeControl b with
      | some c => .ok (c.toInstr, rest)
      | none => .error .reservedControl
    | .cmd => decodeCmdUnit b rest
    | .data => .ok (.dataByte b, rest)

/-- The decoder on one whole encoded instruction. -/
def decode : Encoded → Except DecodeError Instr
  | .hop w => decodeHop w
  | .wire f bytes =>
    match decodeWire f bytes with
    | .ok (i, []) => .ok i
    | .ok (_, _ :: _) => .error .trailing
    | .error e => .error e

/-- The place that a byte is read in when only its bits are given, as the opcode table's rows give
them: the row that fixes the most bits wins (log 18). The panel itself never has to choose: its frame
handler or its D/C line says in which place a byte stands (rules R233, R236). -/
def tableFormat (b : Byte) : WireFormat :=
  if (decodeControl b).isSome then .ctl
  else if (decodeCommand b).isSome then .cmd
  else if b.getLsbD 0 then .data
  else .addr

/-- The bytes of the instruction whose first byte is `b`, every later byte 0. -/
def tableBytes (b : Byte) : List Byte := if b = 0x81 then [b, 0] else [b]

/-- The instruction whose table bits are `w`: 16 bits are a host operation word, 8 bits a byte of the
panel's wire. -/
def decodeTableWord (nbits w : Nat) : Option Instr :=
  if nbits = 16 then (decodeHop (BitVec.ofNat 16 w)).toOption
  else if nbits = 8 then
    let b := BitVec.ofNat 8 w
    match decodeWire (tableFormat b) (tableBytes b) with
    | .ok (i, _) => some i
    | .error _ => none
  else none

/-! ## The encoder -/

/-- The address byte `(a << 1) | 0` (rule R99). -/
def addrByte (a : BitVec 7) : Byte := a ++ 0#1

/-- SET_LOW_COL `0000 llll` (rule R95). -/
def lowColByte (lo : BitVec 4) : Byte := 0x0#4 ++ lo

/-- SET_HIGH_COL `0001 hhhh` (rule R95). -/
def highColByte (hi : BitVec 4) : Byte := 0x1#4 ++ hi

/-- SET_NORM_INV `1010 011i` (rule R95). -/
def normInvByte (flag : BitVec 1) : Byte := 0b1010011#7 ++ flag

/-- SET_DISP `1010 111o` (rule R95). -/
def dispByte (flag : BitVec 1) : Byte := 0b1010111#7 ++ flag

/-- SET_PAGE `1011 pppp` (rule R95). -/
def pageByte (p : BitVec 4) : Byte := 0xB#4 ++ p

/-- The encoding of each row (rules R90, R93, R95, R99, R100, R102). -/
def encode : Instr → Encoded
  | .reset => .hop (hopWord 0x01 0)
  | .poweron => .hop (hopWord 0x02 0)
  | .poweroff => .hop (hopWord 0x03 0)
  | .sleep v => .hop (hopWord 0x04 v)
  | .contrast level => .hop (hopWord 0x05 level)
  | .invert flag => .hop (hopWord 0x06 flag)
  | .showPages => .hop (hopWord 0x07 0)
  | .init => .hop (hopWord 0x08 0)
  | .fill value => .hop (hopWord 0x09 value)
  | .writeCmd c => .hop (hopWord 0x0A c)
  | .writeData => .hop (hopWord 0x0B 0)
  | .fbWrite v => .hop (hopWord 0x0C v)
  | .fbRead => .hop (hopWord 0x0D 0)
  | .setLowCol lo => .wire .cmd [lowColByte lo]
  | .setHighCol hi => .wire .cmd [highColByte hi]
  | .setContrast level => .wire .cmd [0x81, level]
  | .setNormInv flag => .wire .cmd [normInvByte flag]
  | .setDisp flag => .wire .cmd [dispByte flag]
  | .setPage p => .wire .cmd [pageByte p]
  | .dataByte d => .wire .data [d]
  | .i2cAddress a => .wire .addr [addrByte a]
  | .ctlOneCmd => .wire .ctl [0x80]
  | .ctlDataStream => .wire .ctl [0x40]
  | .ctlCmdStream => .wire .ctl [0x00]
  | .ctlOneData => .wire .ctl [0xC0]

end Sys2Proof
end

