-- ==== Sys2Proof/Machine/State.lean ====
section
/-! DEFINITION. The state of the block, its panel and its bus, as plain data (rules R20 to R49), and the
state right after construction. -/

namespace Sys2Proof.Machine

/-- The machine's one stop. -/
inductive Fault where
  /-- Raised by every host operation's meaning in a state with `BUSY = 1`: "a submit while `BUSY = 1` has
  no step" (rule R310; treatment `stuck` of 93_implementation_defined.md U8). Safe: the model goes no
  further than the hardware. `step` never raises it, because it goes on with the operation in progress. -/
  | submitWhileBusy
deriving DecidableEq, Repr

/-- What the model gives no meaning. -/
inductive Refusal where
  /-- Raised by `exec` for an instruction that has no meaning yet; no arm does. Safe. -/
  | notModelled (mnemonic : String)
deriving DecidableEq, Repr

/-- `LIFECYCLE` (rule R29). -/
inductive Lifecycle where
  | unknown
  | reset
  | poweredOn
  | poweredOff
  | sleeping
deriving DecidableEq, Repr

/-- The level of an output line; `x` is not yet driven by the block (rule R33). -/
inductive Level where
  | lo
  | hi
  | x
deriving DecidableEq, Repr

/-- The output lines (rules R33, R66). -/
inductive Line where
  | res
  | dc
  | cs
deriving DecidableEq, Repr

/-- The transport calls a host operation expands into (rule R11). -/
inductive TransportCall where
  | cmd (c : Byte)
  | data (l : List Byte)
  | dataFb (p : Nat)
  | res (lv : Bool)
  | wait (ms : Nat)
  | fillFb (v : Bool)
  | fbw (i : Nat) (v : Byte)
  | fbr (i : Nat)
deriving DecidableEq, Repr

/-- The bus actions, the only outputs of the block (rules R11, R66). -/
inductive BusAction where
  | pin (line : Line) (lv : Bool)
  | wait (ms : Nat)
  | i2cTxn (l : List Byte)
  | spiCfg (m : SpiMode)
  | spiXfer (l : List Byte)
deriving DecidableEq, Repr

/-- Byte-addressed memory: what has been written, as address and byte pairs with strictly rising
addresses (`Memory.wf`). An unlisted address has not been written; what it then reads as is `fbByte`
for the framebuffer and `pramByte` for the display memory (log 7, log 8). -/
abbrev Memory := List Host.Cell

/-- How far the panel is in a reset by the RES line (rule R249; log 15). -/
inductive ResetPhase where
  /-- no reset in progress -/
  | idle
  /-- the line is low and no wait of at least 20 ms has passed since it fell -/
  | low
  /-- the line is low and has been held for a wait of at least 20 ms -/
  | held
  /-- the line has risen after `held`; the 20 ms after the edge have not passed -/
  | risen
  /-- the line has risen from `low`, too early; the 20 ms after the edge have not passed -/
  | risenEarly
deriving DecidableEq, Repr

/-- What the model knows of the panel fields. -/
inductive Standing where
  /-- in `PANEL_RESET`, and no byte delivered since (rules R249, R303) -/
  | inReset
  /-- as the rules say -/
  | ordinary
  /-- undefined by rule R252 until the next panel reset (log 13) -/
  | undefined
  /-- no longer modelled after a panel-side refusal (rule R280; log 12) -/
  | abandoned
deriving DecidableEq, Repr

/-- The panel's state (rules R40 to R47). -/
structure Panel where
  /-- `PRAM`: the bytes written since the draw `ramDraw`, at `pramAddr page col` -/
  pram : Memory
  /-- the number of the draw that unlisted bytes of `PRAM` belong to (log 8) -/
  ramDraw : Nat
  /-- `P_PAGE` -/
  page : BitVec 4
  /-- `P_COL` -/
  col : BitVec 8
  /-- `P_ON` -/
  lit : Bool
  /-- `P_INV` -/
  inverted : Bool
  /-- `P_CONTRAST` -/
  contrast : Byte
  /-- `P_CPEND` -/
  cpend : Bool
  /-- `FH_STATE` -/
  fh : FhState
  phase : ResetPhase
  standing : Standing
deriving DecidableEq, Repr

/-- What the outside world does next, while the block is idle. -/
inductive Input where
  /-- the host writes `HOP` (rule R21) -/
  | writeHop (w : HopWord)
  /-- the host writes `HADDR` (rule R22) -/
  | writeHaddr (a : Nat)
  /-- the host writes `HDATA` (rule R23) -/
  | writeHdata (l : List Byte)
  /-- the host submits the operation in `HOP` (rule R120) -/
  | submit
  /-- another device on the shared bus leaves `SPI_MODE` at `m` (rules R34, R313) -/
  | otherDevice (m : SpiMode)
  /-- external means put the panel in its reset state (rules R180, R303) -/
  | externalReset
  /-- bytes reach the panel in a given place, from outside the block: the panel-only stimuli of
  95_test_vectors.md L2.5 (log 17) -/
  | wire (f : WireFormat) (bytes : List Byte)
  /-- a stop condition on such an I2C transaction (rule R234) -/
  | stop
deriving DecidableEq, Repr

/-- The whole machine. -/
structure State where
  /-- `HOP` (rule R21) -/
  hop : HopWord
  /-- the host has written `HOP` (rules R21, R120) -/
  hopWritten : Bool
  /-- `HADDR` (rule R22) -/
  haddr : Nat
  /-- `HDATA` (rule R23) -/
  hdata : List Byte
  /-- `HRES` (rule R24) -/
  hres : Byte
  /-- `BUSY` (rule R25) -/
  busy : Bool
  /-- `CUR` (rule R25) -/
  cur : HopWord
  /-- `TCL` (rule R25) -/
  tcl : List TransportCall
  /-- `TPC` (rules R25, R26) -/
  tpc : Nat
  /-- `BPC` (rules R25, R26) -/
  bpc : Nat
  /-- `HSTAT` (rule R27) -/
  hstat : BitVec 32
  /-- `CFG` (rule R28) -/
  cfg : Cfg
  /-- the open parameters (rule R7) -/
  par : OpenParams
  /-- `LIFECYCLE` (rule R29) -/
  lifecycle : Lifecycle
  /-- `INIT_DONE` (rule R30) -/
  initDone : Bool
  /-- `REFUSED` (rule R31) -/
  refused : Bool
  /-- `DEAD` (rule R32) -/
  dead : Bool
  /-- `LINE_RES` (rule R33) -/
  lineRes : Level
  /-- `LINE_DC` (rule R33) -/
  lineDc : Level
  /-- `LINE_CS` (rule R33) -/
  lineCs : Level
  /-- `SPI_MODE` (rule R34) -/
  spiMode : SpiMode
  /-- `FB` (rules R35, R60) -/
  fb : Memory
  /-- the panel (rules R40 to R47) -/
  panel : Panel
  /-- the wire trace, oldest first (rules R10, R66) -/
  trace : List BusAction
  /-- the bus environment's coming answers, next first (rule R272; log 9) -/
  answers : List BusAnswer
  /-- the coming inputs, next first (log 17, log 19) -/
  inputs : List Input
  /-- the number of the next free value (log 27) -/
  draws : Nat
deriving DecidableEq, Repr

/-- The configuration of State.reset: the source's own scenario, "a 128×64 I2C controller at address
`0x3C`", with a reset line (vector S10). DESIGN CHOICE (log 4). -/
def scenarioCfg : Cfg :=
  { width := 128, height := 64, bus := .i2c, i2cAddr := 0x3C, hasRes := true, hasCs := false,
    spiBaud := 10000000, extVcc := false }

/-- `PANEL_RESET` with nothing assumed: every field a draw (rule R249). -/
def allDrawn : PanelReset :=
  { pram := [], page := none, col := none, lit := none, inverted := none, contrast := none }

/-- The open parameters of State.reset: the values of 93_implementation_defined.md Part 3, with every
field of `PANEL_RESET` left a draw. PRESUMED (log 5). -/
def scenarioParams : OpenParams :=
  { maxData := 1024, panelCols := 132, panelPages := 8, panelAddr := 0x3C, panelMaxBaud := 10000000,
    panelReset := allDrawn }

/-- The panel fields after construction: unspecified by the spec; the values named here are a DESIGN
CHOICE (rule R49; log 3). -/
def Panel.reset : Panel :=
  { pram := [], ramDraw := 0, page := 0, col := 0, lit := false, inverted := false, contrast := 0,
    cpend := false, fh := .dropped, phase := .idle, standing := .ordinary }

/-- The machine right after construction (rules R49, R301), with the scenario's parameters. The registers
that rule R49 leaves unspecified hold 0: DESIGN CHOICE (log 3). -/
def State.reset : State :=
  { hop := 0, hopWritten := false, haddr := 0, hdata := [], hres := 0,
    busy := false, cur := 0, tcl := [], tpc := 0, bpc := 0,
    hstat := 0, cfg := scenarioCfg, par := scenarioParams,
    lifecycle := .unknown, initDone := false, refused := false, dead := false,
    lineRes := .x, lineDc := .x, lineCs := .x, spiMode := { baud := 0, pol := 0, pha := 0 },
    fb := [], panel := Panel.reset, trace := [], answers := [], inputs := [], draws := 1 }

end Sys2Proof.Machine
end

