-- ==== Sys2Proof/Machine/Flags.lean ====
section
/-! DEFINITION. The status word. The block has no condition flags (rule R36); what it reports is
`HSTAT`, assembled and read here (rules R27, R270). -/

namespace Sys2Proof.Machine

/-- `HSTAT` from its fields; bits 7..4 are 0 (rule R27). `STEP` has 16 bits: a transport-call index of
a block that passed its checks is at most 71 (rule R26; log 26). -/
def mkHstat (kind cause : BitVec 2) (op : Byte) (failed : Nat) : BitVec 32 :=
  BitVec.ofNat 16 failed ++ op ++ 0#4 ++ cause ++ kind

/-- `HSTAT.KIND` (rule R27). -/
def hstatKind (h : BitVec 32) : BitVec 2 := h.extractLsb' 0 2

/-- `HSTAT.CAUSE` (rule R27). -/
def hstatCause (h : BitVec 32) : BitVec 2 := h.extractLsb' 2 2

/-- `HSTAT[7:4]`, hardwired 0 (rule R27). -/
def hstatReserved (h : BitVec 32) : BitVec 4 := h.extractLsb' 4 4

/-- `HSTAT.OP` (rule R27). -/
def hstatOp (h : BitVec 32) : Byte := h.extractLsb' 8 8

/-- `HSTAT.STEP` (rule R27). -/
def hstatStep (h : BitVec 32) : BitVec 16 := h.extractLsb' 16 16

/-- The `CAUSE` code of a TransportError (rule R270). -/
def causeCode : Cause → BitVec 2
  | .nack => 0
  | .timeout => 1
  | .notReady => 2
  | .other => 3

/-- `KIND` of an operation that ended without error (rule R27). -/
def kindOk : BitVec 2 := 0

/-- `KIND` of a ConstructionError (rule R27). -/
def kindConstruction : BitVec 2 := 1

/-- `KIND` of a TransportError (rule R27). -/
def kindTransport : BitVec 2 := 2

end Sys2Proof.Machine
end

