-- ==== Sys2Proof/Machine/Operands.lean ====
section
/-! DEFINITION. Operands: the decoding of `IMM`, the framebuffer's addresses and pixels, the bytes the
block assembles (rules R60, R61, R92, R96, R99, R123). -/

namespace Sys2Proof.Machine

/-- SLEEP's operand: every nonzero octet is true (rule R92). -/
def immActive (v : Byte) : Bool := v != 0

/-- FILL's operand: bit 0 (rule R92). -/
def immBit (v : Byte) : Bool := v.getLsbD 0

/-- The byte FILL writes: 0xFF for 1, 0x00 for 0 (rule R121). -/
def fillByte (v : Bool) : Byte := if v then 0xFF else 0x00

/-- The index of the byte of column `x` in page `p` (rule R60). -/
def fbIndex (c : Cfg) (p x : Nat) : Nat := p * c.W + x

/-- The index of the byte that holds the pixel in column `x` and row `y` (rule R61). -/
def pixelIndex (c : Cfg) (x y : Nat) : Nat := fbIndex c (y / 8) x

/-- The byte with bit `y mod 8` set to `v`: `(b & ~(1 << (y mod 8))) | (v << (y mod 8))` (rules R61, R123). -/
def withPixel (b : Byte) (y : Nat) (v : Bool) : Byte :=
  (b &&& ~~~(1#8 <<< (y % 8))) ||| ((if v then 1#8 else 0#8) <<< (y % 8))

/-- The display memory's key of a page and a raw column (rule R40). No two places share a key, whatever
`PANEL_PAGES` and `PANEL_COLS` are: rule R7 bounds neither (`pramAddr_inj`; log 8). -/
def pramAddr (pg col : Nat) : Nat := if pg < col then col * col + pg else pg * pg + pg + col

/-- `page_cmd(p) = 0xB0 | p` (rule R96). -/
def pageCmd (p : Nat) : Byte := 0xB0 ||| BitVec.ofNat 8 p

/-- `lowcol_cmd = 0x00 | COL_OFFSET` (rule R96). -/
def lowColCmd : Byte := 0x00 ||| BitVec.ofNat 8 colOffset

/-- `highcol_cmd = 0x10 | 0` (rule R96). -/
def highColCmd : Byte := 0x10 ||| 0

/-- `disp_cmd(on) = 0xAE | on` (rule R96). -/
def dispCmd (b : Bool) : Byte := 0xAE ||| (if b then 1 else 0)

/-- `norminv_cmd(i) = 0xA6 | i` for an `IMM` of 0 or 1 (rules R96, R185). -/
def normInvCmd (i : Byte) : Byte := 0xA6 ||| i

/-- The first byte of SET_CONTRAST (rule R96). -/
def contrastCmd : Byte := 0x81

/-- `ADDRBYTE = (I2C_ADDR << 1) | 0` (rule R99). -/
def cfgAddrByte (c : Cfg) : Byte := (BitVec.ofNat 8 c.i2cAddr <<< 1) ||| 0

/-- The control byte of every I2C command (rule R100). -/
def ctlOneCmdByte : Byte := 0x80

/-- The control byte of every I2C data block (rule R100). -/
def ctlDataStreamByte : Byte := 0x40

/-- The SPI configuration the block always asks for: `SPI_CFG(SPI_BAUD, 0, 0)` (rule R150). -/
def blockMode (c : Cfg) : SpiMode := { baud := c.spiBaud, pol := 0, pha := 0 }

end Sys2Proof.Machine
end

