-- ==== Sys2Proof/Machine/Ops.lean ====
section
/-! DEFINITION. The named operations over the framebuffer, the display memory, the bus answers, the
free values, refusal, completion and the abort, which is the block's exception entry (rules R10, R62,
R240, R270 to R280). -/

namespace Sys2Proof.Machine

/-! ## Memory -/

/-- The byte written at an address, if any. -/
def Memory.byte? : Memory → Nat → Option Byte
  | [], _ => none
  | (a, v) :: m, i => if a = i then some v else Memory.byte? m i

/-- Write one byte, keeping the addresses strictly rising. -/
def Memory.put : Memory → Nat → Byte → Memory
  | [], i, v => [(i, v)]
  | (a, w) :: m, i, v =>
    if i < a then (i, v) :: (a, w) :: m
    else if i = a then (i, v) :: m
    else (a, w) :: Memory.put m i v

/-- The canonical form: addresses strictly rising. An unlisted address holds no written byte, so no
entry can equal what an unlisted address holds. -/
def Memory.wf : Memory → Bool
  | [] => true
  | [_] => true
  | (a, _) :: (b, w) :: m => decide (a < b) && Memory.wf ((b, w) :: m)

/-- `FB[i]`: the byte written there, or the unspecified byte of rule R35 (log 7). -/
def fbByte (s : State) (i : Nat) : Byte := (Memory.byte? s.fb i).getD (Config.anyFbByte i)

/-- `MemRead(i, n)` (rule R10). -/
def memRead (s : State) (i n : Nat) : List Byte := (List.range n).map fun k => fbByte s (i + k)

/-- The list of `MemWrite` written from index `i` on (rule R10). -/
def Memory.putAll (m : Memory) (i : Nat) : List Byte → Memory
  | [] => m
  | v :: l => Memory.putAll (Memory.put m i v) (i + 1) l

/-- `MemWrite(i, len l, l)` (rule R10). -/
def memWrite (s : State) (i : Nat) (l : List Byte) : State := { s with fb := Memory.putAll s.fb i l }

/-- `FILLFB(v)`: every one of the `W * PAGES` bytes (rule R121). -/
def fillAll (s : State) (v : Bool) : State :=
  { s with fb := (List.range s.cfg.fbSize).map fun i => (i, fillByte v) }

/-- The pixel of column `x` and row `y` (rule R61). -/
def pixel (s : State) (x y : Nat) : Bool := (fbByte s (pixelIndex s.cfg x y)).getLsbD (y % 8)

/-- `PRAM[pg][col]`: the byte written there, or the one of the draw it belongs to (rule R40; log 8). -/
def pramByte (p : Panel) (pg col : Nat) : Byte :=
  (Memory.byte? p.pram (pramAddr pg col)).getD (Config.anyPram p.ramDraw (pramAddr pg col))

/-- The visible image (rule R250). -/
def lit (p : Panel) (x y : Nat) : Bool :=
  p.lit && ((pramByte p (y / 8) (x + colOffset)).getLsbD (y % 8) ^^ p.inverted)

/-! ## The panel's side: what a received byte can change -/

/-- What the panel changes when it receives something: its own fields, `REFUSED`, and the number of
the next free value. -/
structure Rx where
  panel : Panel
  refused : Bool
  draws : Nat
deriving DecidableEq, Repr

/-- The panel's side of a state. -/
def State.rx (s : State) : Rx := { panel := s.panel, refused := s.refused, draws := s.draws }

/-- A state with the panel's side replaced. -/
def State.setRx (s : State) (r : Rx) : State :=
  { s with panel := r.panel, refused := r.refused, draws := r.draws }

/-- What the panel meets from outside: the parameters, the levels of the lines, the mode of the bus. No
received byte changes any of it. -/
structure Wires where
  cfg : Cfg
  par : OpenParams
  lineRes : Level
  lineDc : Level
  lineCs : Level
  spiMode : SpiMode
deriving DecidableEq, Repr

/-- What the panel meets in a state. -/
def State.wires (s : State) : Wires :=
  { cfg := s.cfg, par := s.par, lineRes := s.lineRes, lineDc := s.lineDc, lineCs := s.lineCs,
    spiMode := s.spiMode }

/-- An update of the panel fields alone. -/
def Rx.onPanel (r : Rx) (f : Panel → Panel) : Rx := { r with panel := f r.panel }

/-- The rules say what the panel's fields are (rules R252, R280). -/
def Standing.known : Standing → Bool
  | .inReset => true
  | .ordinary => true
  | .undefined => false
  | .abandoned => false

/-- `FH_STATE` drawn from the values rule R47 lists, so never the model's `dropped` (log 13, log 16); it
exists only when `BUS = I2C`. -/
def drawnFh (c : Cfg) (k : Nat) : FhState :=
  match c.bus with
  | .i2c =>
    match Config.anyFh k with
    | .dropped => .ctrl
    | .ctrl => .ctrl
    | .one k => .one k
    | .stream k => .stream k
  | .spi => .dropped

/-- Every panel field takes a fresh draw from its full range (rule R252). -/
def Rx.redraw (c : Cfg) (r : Rx) : Rx :=
  { panel :=
      { pram := []
        ramDraw := r.draws
        page := Config.anyPage r.draws
        col := Config.anyCol r.draws
        lit := Config.anyOn r.draws
        inverted := Config.anyInv r.draws
        contrast := Config.anyContrast r.draws
        cpend := Config.anyCpend r.draws
        fh := drawnFh c r.draws
        phase := r.panel.phase
        standing := r.panel.standing }
    refused := r.refused
    draws := r.draws + 1 }

/-- The standing of a panel that rule R252 makes undefined; a panel no longer modelled stays so. -/
def Standing.lost : Standing → Standing
  | .inReset => .undefined
  | .ordinary => .undefined
  | .undefined => .undefined
  | .abandoned => .abandoned

/-- The panel is undefined until its next reset (rule R252; log 13). -/
def Rx.undefine (c : Cfg) (r : Rx) : Rx :=
  (r.redraw c).onPanel fun p => { p with standing := p.standing.lost }

/-- A panel-side refusal: `REFUSED <- 1`, and the panel's state is no longer modelled (rule R280;
log 12). -/
def Rx.refuse (c : Cfg) (r : Rx) : Rx :=
  { (r.redraw c).onPanel (fun p => { p with standing := .abandoned }) with refused := true }

/-- The panel fields become `PANEL_RESET`, with `P_CPEND = 0` and the frame handler dropped (rule R249).
A field that `PANEL_RESET` leaves open is drawn (log 6). A panel no longer modelled is drawn whole. -/
def Rx.panelReset (w : Wires) (r : Rx) : Rx :=
  if r.panel.standing = .abandoned then (r.redraw w.cfg).onPanel fun p => { p with phase := .idle }
  else
    { panel :=
        { pram := w.par.panelReset.pram
          ramDraw := r.draws
          page := w.par.panelReset.page.getD (Config.anyPage r.draws)
          col := w.par.panelReset.col.getD (Config.anyCol r.draws)
          lit := w.par.panelReset.lit.getD (Config.anyOn r.draws)
          inverted := w.par.panelReset.inverted.getD (Config.anyInv r.draws)
          contrast := w.par.panelReset.contrast.getD (Config.anyContrast r.draws)
          cpend := false
          fh := .dropped
          phase := .idle
          standing := .inReset }
      refused := r.refused
      draws := r.draws + 1 }

/-! ## The block's side -/

/-- A host-side refusal: `REFUSED <- 1` and no other change (rules R94, R124, R280). -/
def refuse (s : State) : State := { s with refused := true }

/-- Append a bus action to the wire trace (rule R10). -/
def emit (a : BusAction) (s : State) : State := { s with trace := s.trace ++ [a] }

/-- The level a `PIN` action drives (rule R66). -/
def levelOf (b : Bool) : Level := if b then .hi else .lo

/-- `S.LINE_<line> <- lv` (rule R66). -/
def driveLine (line : Line) (lv : Bool) (s : State) : State :=
  match line with
  | .res => { s with lineRes := levelOf lv }
  | .dc => { s with lineDc := levelOf lv }
  | .cs => { s with lineCs := levelOf lv }

/-- The bus actions that can fail (rule R66). -/
def BusAction.fallible : BusAction → Bool
  | .pin _ _ => false
  | .wait _ => false
  | .i2cTxn _ => true
  | .spiCfg _ => true
  | .spiXfer _ => true

/-- The causes an action can fail with (rules R66, R270). -/
def BusAction.allows : BusAction → Cause → Bool
  | .pin _ _, _ => false
  | .wait _, _ => false
  | .i2cTxn _, _ => true
  | .spiCfg _, .nack => false
  | .spiCfg _, .timeout => false
  | .spiCfg _, .notReady => true
  | .spiCfg _, .other => true
  | .spiXfer _, .nack => false
  | .spiXfer _, .timeout => true
  | .spiXfer _, .notReady => true
  | .spiXfer _, .other => true

/-- An answer as one of the set that rule R272 draws from for this action: a cause the action cannot
fail with reads as `other` (log 9). -/
def admissible (a : BusAction) : BusAnswer → BusAnswer
  | .ok => .ok
  | .err c n => if a.allows c then .err c n else .err .other n

/-- The bus environment's next answer (rule R272; log 9). -/
def nextAnswer (s : State) : BusAnswer :=
  match s.answers with
  | r :: _ => r
  | [] => Config.anyAnswer s.draws

/-- The state after the bus environment's next answer has been taken. -/
def takeAnswer (s : State) : State :=
  match s.answers with
  | _ :: l => { s with answers := l }
  | [] => { s with draws := s.draws + 1 }

/-- The opcode of the operation in progress, `CUR[15:8]`. -/
def curOp (s : State) : Byte := opcOf s.cur

/-- Abort, the block's exception entry (rule R273): `HSTAT` records that a TransportError of cause `c`
ended the operation `CUR[15:8]` at transport call `TPC`, and `BUSY <- 0`. `TPC` and `BPC` keep their
values. There is no handler and no return (rule R276): the next submit is taken like any other. -/
def abort (c : Cause) (s : State) : State :=
  { s with hstat := mkHstat kindTransport (causeCode c) (curOp s) s.tpc, busy := false }

/-- `LIFECYCLE` after the completion of the operation in `CUR` (rules R180 to R183, R271). -/
def completedLifecycle (s : State) : Lifecycle :=
  match (curOp s).toNat with
  | 0x01 => .reset
  | 0x02 => .poweredOn
  | 0x03 => .poweredOff
  | 0x04 => if immActive (immOf s.cur) then .sleeping else .poweredOn
  | _ => s.lifecycle

/-- Completion (rule R271): `HSTAT` with `KIND 0`, the operation's completion updates, `BUSY <- 0`.
`INIT_DONE` is set by INIT alone (rules R30, R190). -/
def complete (s : State) : State :=
  { s with
    hstat := mkHstat kindOk 0 (curOp s) 0
    lifecycle := completedLifecycle s
    initDone := s.initDone || curOp s == 0x08
    busy := false }

end Sys2Proof.Machine
end

