-- ==== Sys2Proof/Machine/Panel.lean ====
section
/-! DEFINITION. The receiving side: command interpreter, data bytes, I2C frame handler, SPI receiver and
the reset line (rules R230 to R252). In every function `w` is what the panel meets from
outside, its parameters, the lines and the bus mode; `r` is the panel's side, which the byte changes. -/

namespace Sys2Proof.Machine

/-! ## What a byte meets -/

/-- A byte received now is received during a panel reset: `LINE_RES = 0`, or the 20 ms after the rising
edge have not passed (rule R249). -/
def duringReset (w : Wires) (r : Rx) : Bool := w.lineRes == .lo || r.panel.phase != .idle

/-- The panel receives something: if its fields are undefined they are drawn again, with no refusal
(rule R252); during a reset the byte is refused (rule R249); else `f`. -/
def listening (w : Wires) (f : Rx → Rx) (r : Rx) : Rx :=
  if r.panel.standing.known then
    if duringReset w r then r.refuse w.cfg else f r
  else r.redraw w.cfg

/-- A byte has been delivered, so the panel is no longer just reset (rule R303). -/
def Panel.heard (p : Panel) : Panel := { p with standing := .ordinary }

/-! ## Command interpreter (rules R241 to R248) -/

/-- SET_LOW_COL: `P_COL[3:0] <- lo` (rule R246). -/
def Panel.setLowCol (lo : BitVec 4) (p : Panel) : Panel := { p with col := p.col.extractLsb' 4 4 ++ lo }

/-- SET_HIGH_COL: `P_COL[7:4] <- hi` (rule R247). -/
def Panel.setHighCol (hi : BitVec 4) (p : Panel) : Panel := { p with col := hi ++ p.col.extractLsb' 0 4 }

/-- SET_CONTRAST, first byte: `P_CPEND <- 1` (rule R241). -/
def Panel.awaitContrast (p : Panel) : Panel := { p with cpend := true }

/-- SET_CONTRAST, second byte: `P_CONTRAST <- b`, `P_CPEND <- 0` (rule R242). -/
def Panel.setContrast (b : Byte) (p : Panel) : Panel := { p with contrast := b, cpend := false }

/-- SET_NORM_INV: `P_INV <- b[0]` (rule R243). -/
def Panel.setNormInv (flag : BitVec 1) (p : Panel) : Panel := { p with inverted := flag.getLsbD 0 }

/-- SET_DISP: `P_ON <- b[0]` (rule R244). -/
def Panel.setDisp (flag : BitVec 1) (p : Panel) : Panel := { p with lit := flag.getLsbD 0 }

/-- SET_PAGE: `P_PAGE <- b[3:0]` (rule R245). -/
def Panel.setPage (n : BitVec 4) (p : Panel) : Panel := { p with page := n }

/-- `deliver(CMD, b)` for a byte whose effect is `effect` when no contrast value is awaited (rules R98,
R238, R242). It does not step the frame handler and does not read the SPI lines: rules R233 and R236 do, in
`i2cByte` and `spiByte` (log 17). -/
def commandByte (w : Wires) (b : Byte) (effect : Rx → Rx) (r : Rx) : Rx :=
  listening w
    (fun r =>
      let r := r.onPanel Panel.heard
      if r.panel.cpend then r.onPanel (Panel.setContrast b) else effect r) r

/-- What a command byte does when no contrast value is awaited (rules R241, R243 to R248). -/
def commandEffect (w : Wires) (b : Byte) (r : Rx) : Rx :=
  match decodeCommand b with
  | some (.lowCol lo) => r.onPanel (Panel.setLowCol lo)
  | some (.highCol hi) => r.onPanel (Panel.setHighCol hi)
  | some .contrastFirst => r.onPanel Panel.awaitContrast
  | some (.normInv flag) => r.onPanel (Panel.setNormInv flag)
  | some (.disp flag) => r.onPanel (Panel.setDisp flag)
  | some (.page p) => r.onPanel (Panel.setPage p)
  | none => r.refuse w.cfg

/-- `deliver(CMD, b)` (rules R238, R241 to R248). -/
def deliverCmd (w : Wires) (b : Byte) (r : Rx) : Rx := commandByte w b (commandEffect w b) r

/-! ## Data bytes (rules R238, R240) -/

/-- `P_COL` is at the last value its 8 bits hold (rule R42). -/
def Panel.colAtEnd (p : Panel) : Bool := p.col == 0xFF

/-- `PRAM[P_PAGE][P_COL] <- b`, `P_COL <- P_COL + 1` (rule R240). The sum one past 0xFF is a free value
(log 11). -/
def storeData (b : Byte) (r : Rx) : Rx :=
  { r with
    panel :=
      { r.panel with
        pram := Memory.put r.panel.pram (pramAddr r.panel.page.toNat r.panel.col.toNat) b
        col := if r.panel.colAtEnd then Config.anyNextCol r.draws else r.panel.col + 1 }
    draws := if r.panel.colAtEnd then r.draws + 1 else r.draws }

/-- The addressed place is outside the display memory (rule R240). -/
def outsideRam (w : Wires) (p : Panel) : Bool :=
  decide (w.par.panelPages ≤ p.page.toNat) || decide (w.par.panelCols ≤ p.col.toNat)

/-- `deliver(DATA, b)`: refused while a contrast value is awaited or outside the display memory, else
stored (rules R238, R240). -/
def deliverData (w : Wires) (b : Byte) (r : Rx) : Rx :=
  listening w
    (fun r =>
      let r := r.onPanel Panel.heard
      if r.panel.cpend || outsideRam w r.panel then r.refuse w.cfg else storeData b r) r

/-- `deliver(k, b)` (rule R238). -/
def deliver (w : Wires) (k : Kind) (b : Byte) (r : Rx) : Rx :=
  match k with
  | .cmd => deliverCmd w b r
  | .data => deliverData w b r

/-! ## I2C frame handler (rules R231 to R235) -/

/-- `FH_STATE <- f`. -/
def Panel.setFh (f : FhState) (p : Panel) : Panel := { p with fh := f }

/-- The address byte selects the panel, in the write direction (rule R232). -/
def selectsPanel (w : Wires) (b : Byte) : Bool :=
  b.extractLsb' 1 7 == w.par.panelAddr && !b.getLsbD 0

/-- The first byte of a transaction (rules R232, R235). One that does not select the panel changes no
field but the frame handler's, which is dropped (log 16), also where the fields are undefined (rule R252; log
13); a panel no longer modelled is drawn (rule R280; log 12). There is a frame handler only when `BUS = I2C`
(rule R47; log 16). -/
def i2cStart (w : Wires) (b : Byte) (r : Rx) : Rx :=
  match w.cfg.bus with
  | .spi => r
  | .i2c =>
    if r.panel.standing = .abandoned then r.redraw w.cfg
    else if selectsPanel w b then listening w (fun r => r.onPanel (Panel.setFh .ctrl)) r
    else r.onPanel (Panel.setFh .dropped)

/-- The frame handler's state after a control byte (rule R233). -/
def Control.next : Control → FhState
  | .one k => .one k
  | .stream k => .stream k

/-- A byte in the place of a control byte (rule R233). -/
def controlByte (w : Wires) (b : Byte) (r : Rx) : Rx :=
  listening w
    (fun r =>
      match decodeControl b with
      | some c => r.onPanel (Panel.setFh (Control.next c))
      | none => r.refuse w.cfg) r

/-- The single payload byte of a frame with Co = 1: `deliver(k, b)`, then `FH_STATE <- CTRL` (rule R233). -/
def payloadOne (w : Wires) (k : Kind) (b : Byte) (r : Rx) : Rx :=
  let t := deliver w k b r
  if t.panel.standing.known then t.onPanel (Panel.setFh .ctrl) else t

/-- One byte after the address byte (rules R233, R235). In a transaction for another device it changes
nothing, also where the fields are undefined (log 13); a panel no longer modelled is drawn (log 12). -/
def i2cByte (w : Wires) (r : Rx) (b : Byte) : Rx :=
  if r.panel.standing = .abandoned then r.redraw w.cfg
  else
    match r.panel.fh with
    | .dropped => r
    | .ctrl => controlByte w b r
    | .one k => payloadOne w k b r
    | .stream k => deliver w k b r

/-- The stop condition: the frame handler's state is dropped (rule R234). -/
def i2cStop (r : Rx) : Rx :=
  if r.panel.standing.known then r.onPanel (Panel.setFh .dropped) else r

/-- What the panel does with the bytes of one transaction (rules R230, R232 to R234). -/
def i2cTransaction (w : Wires) (l : List Byte) (r : Rx) : Rx :=
  match l with
  | [] => r
  | a :: rest => i2cStop (rest.foldl (i2cByte w) (i2cStart w a r))

/-! ## SPI receiver (rules R236, R237) -/

/-- The panel cannot take the bytes as sent: its largest rate is below `SPI_BAUD`, or the bus is not in
the mode the block configures (rule R237; log 22). -/
def rxGarbled (w : Wires) : Bool :=
  decide (w.par.panelMaxBaud < w.cfg.spiBaud) || w.spiMode != blockMode w.cfg

/-- The byte as the panel receives it (rule R237). -/
def rxByte (w : Wires) (b : Byte) (r : Rx) : Byte := if rxGarbled w then Config.anyRxByte r.draws else b

/-- The panel's side after the receiver's draw, if there was one. -/
def rxDrawn (w : Wires) (r : Rx) : Rx := if rxGarbled w then { r with draws := r.draws + 1 } else r

/-- One byte of an SPI transfer: received when CS is low or there is no CS line, of the kind the D/C
line says, refused when that line is not driven (rule R236). -/
def spiByte (w : Wires) (r : Rx) (b : Byte) : Rx :=
  if w.cfg.hasCs && w.lineCs != .lo then r
  else
    match w.lineDc with
    | .lo => deliverCmd w (rxByte w b r) (rxDrawn w r)
    | .hi => deliverData w (rxByte w b r) (rxDrawn w r)
    | .x => listening w (fun r => r.refuse w.cfg) (rxDrawn w r)

/-- What the panel does with the bytes of one SPI transfer (rules R230, R236). -/
def spiTransfer (w : Wires) (l : List Byte) (r : Rx) : Rx := l.foldl (spiByte w) r

/-! ## Reset line (rule R249) -/

/-- `PHASE <- f`. -/
def Panel.setPhase (f : ResetPhase) (p : Panel) : Panel := { p with phase := f }

/-- The RES line is driven to `lv` (rule R249; log 15). A pulse shorter than the rule asks for leaves
the panel undefined. -/
def onResPin (w : Wires) (lv : Bool) (r : Rx) : Rx :=
  match lv, r.panel.phase with
  | false, .idle => r.onPanel (Panel.setPhase .low)
  | false, .low => r
  | false, .held => r
  | false, .risen => r.onPanel (Panel.setPhase .low)
  | false, .risenEarly => r.onPanel (Panel.setPhase .low)
  | true, .idle => r
  | true, .low => (r.undefine w.cfg).onPanel (Panel.setPhase .risenEarly)
  | true, .held => r.onPanel (Panel.setPhase .risen)
  | true, .risen => r
  | true, .risenEarly => r

/-- The length of the two waits that a panel reset needs (rules R249, R312). -/
def resetWait : Nat := 20

/-- A timed wait passes (rule R249). -/
def onWait (w : Wires) (ms : Nat) (r : Rx) : Rx :=
  if resetWait ≤ ms then
    match r.panel.phase with
    | .idle => r
    | .low => r.onPanel (Panel.setPhase .held)
    | .held => r
    | .risen => r.panelReset w
    | .risenEarly => r.onPanel (Panel.setPhase .idle)
  else r

end Sys2Proof.Machine
end

