-- ==== Sys2Proof/Machine/Sequencer.lean ====
section
/-! DEFINITION. The sequencer: expansion of transport calls into bus actions, the performing of one bus
action, the advance, and the cycle of a host operation (rules R26, R66, R120, R143, R191, R271 to R274). -/

namespace Sys2Proof.Machine

/-! ## Expansion (rule R143) -/

/-- The SPI actions of one transfer with the D/C line at `dc` (rules R150 to R154). -/
def spiActions (c : Cfg) (dc : Bool) (l : List Byte) : List BusAction :=
  if c.hasCs then
    [.spiCfg (blockMode c), .pin .cs true, .pin .dc dc, .pin .cs false, .spiXfer l, .pin .cs true]
  else [.spiCfg (blockMode c), .pin .dc dc, .spiXfer l]

/-- `CMD(c)` (rules R145, R151, R152). -/
def cmdActions (cfg : Cfg) (c : Byte) : List BusAction :=
  match cfg.bus with
  | .i2c => [.i2cTxn [cfgAddrByte cfg, ctlOneCmdByte, c]]
  | .spi => spiActions cfg false [c]

/-- `DATA(l)` (rules R146, R153, R154). -/
def dataActions (cfg : Cfg) (l : List Byte) : List BusAction :=
  match cfg.bus with
  | .i2c => [.i2cTxn ([cfgAddrByte cfg, ctlDataStreamByte] ++ l)]
  | .spi => spiActions cfg true l

/-- The bytes of page `p`: `MemRead(p * W, W)` (rules R71, R186). -/
def pageBytes (s : State) (p : Nat) : List Byte := memRead s (fbIndex s.cfg p 0) s.cfg.W

/-- The bus actions of a transport call, in the state in which it executes (rule R143). -/
def expansion (s : State) : TransportCall → List BusAction
  | .cmd c => cmdActions s.cfg c
  | .data l => dataActions s.cfg l
  | .dataFb p => dataActions s.cfg (pageBytes s p)
  | .res lv => [.pin .res lv]
  | .wait ms => [.wait ms]
  | .fillFb _ => []
  | .fbw _ _ => []
  | .fbr _ => []

/-! ## Bus actions (rule R66) -/

/-- The operations whose bus actions leave the panel undefined before INIT (rule R191). -/
def isDeviceOp (op : Byte) : Bool :=
  match op.toNat with
  | 0x02 => true
  | 0x03 => true
  | 0x04 => true
  | 0x05 => true
  | 0x06 => true
  | 0x07 => true
  | 0x0A => true
  | 0x0B => true
  | _ => false

/-- A bus action performed now leaves every panel field undefined: an operation of rule R191 before INIT,
or an INIT without a reset line that found the panel out of its reset state (rules R252, R303; log 14). -/
def unsupported (s : State) : Bool :=
  (isDeviceOp (curOp s) && !s.initDone) ||
    (curOp s == 0x08 && !s.cfg.hasRes && s.panel.standing == .undefined)

/-- The panel's side after a bus action (rules R230, R236, R249, R252). `WAIT` and the lines change it only
through its reset; `SPI_CFG` does not change it. -/
def panelRx (a : BusAction) (s : State) : Rx :=
  if unsupported s then s.rx.undefine s.cfg
  else
    match a with
    | .pin .res lv => onResPin s.wires lv s.rx
    | .pin .dc _ => s.rx
    | .pin .cs _ => s.rx
    | .wait ms => onWait s.wires ms s.rx
    | .i2cTxn l => i2cTransaction s.wires l s.rx
    | .spiCfg _ => s.rx
    | .spiXfer l => spiTransfer s.wires l s.rx

/-- What the panel does with a bus action: it changes its own side and nothing else. -/
def panelReceives (a : BusAction) (s : State) : State := s.setRx (panelRx a s)

/-- What a bus action does on the block's side of the bus (rule R66). -/
def blockDrives (a : BusAction) (s : State) : State :=
  match a with
  | .pin line lv => driveLine line lv s
  | .wait _ => s
  | .i2cTxn _ => s
  | .spiCfg m => { s with spiMode := m }
  | .spiXfer _ => s

/-- A bus action that succeeds: into the wire trace, and performed (rules R10, R66). -/
def perform (a : BusAction) (s : State) : State := panelReceives a (blockDrives a (emit a s))

/-- The part of a failed bus action that the panel receives (rule R274). -/
def deliveredPart (a : BusAction) (n : Nat) : BusAction :=
  match a with
  | .pin line lv => .pin line lv
  | .wait ms => .wait ms
  | .i2cTxn l => .i2cTxn (l.take n)
  | .spiCfg m => .spiCfg m
  | .spiXfer l => .spiXfer (l.take n)

/-- What a failed bus action leaves on the block's side: `SPI_MODE` after a failed `SPI_CFG` is a free
value (log 10). -/
def blockDrivesFailed (a : BusAction) (s : State) : State :=
  match a with
  | .pin _ _ => s
  | .wait _ => s
  | .i2cTxn _ => s
  | .spiCfg _ => { s with spiMode := Config.anySpiMode s.draws, draws := s.draws + 1 }
  | .spiXfer _ => s

/-- A bus action that fails after `n` of its bytes (rules R273, R274). -/
def performFailed (a : BusAction) (n : Nat) (s : State) : State :=
  panelReceives (deliveredPart a n) (blockDrivesFailed a (emit a s))

/-! ## Advance and the cycle (rules R26, R120) -/

/-- The number of transport calls of INIT's reset part (rules R180, R190). -/
def resetLength (c : Cfg) : Nat := if c.hasRes then 6 else 0

/-- `LIFECYCLE` when the transport call at `TPC` completes. INIT records its progress: RESET after the last
call of the reset part, ON after `CMD(0xAF)`, which stands two places behind it (rule R190). -/
def progressLifecycle (s : State) : Lifecycle :=
  if curOp s = 0x08 then
    if s.tpc + 1 = resetLength s.cfg then .reset
    else if s.tpc = resetLength s.cfg + 1 then .poweredOn
    else s.lifecycle
  else s.lifecycle

/-- The transport call at `TPC` is complete (rule R26). -/
def callDone (s : State) : State :=
  { s with lifecycle := progressLifecycle s, bpc := 0, tpc := s.tpc + 1 }

/-- A bus action of a call with `n` bus actions is complete (rule R26). -/
def advance (n : Nat) (s : State) : State :=
  if s.bpc + 1 < n then { s with bpc := s.bpc + 1 } else callDone s

/-- The effect of a transport call that has no bus action (rules R121, R125, R127, R162). -/
def internalEffect (s : State) : TransportCall → State
  | .fillFb v => fillAll s v
  | .fbw i v => memWrite s i [v]
  | .fbr i => { s with hres := fbByte s i }
  | .cmd _ => s
  | .data _ => s
  | .dataFb _ => s
  | .res _ => s
  | .wait _ => s

/-- One bus action of a call with `n` of them: performed, then the advance or the abort (rules R26, R272,
R273). -/
def busStep (a : BusAction) (n : Nat) (s : State) : State :=
  if a.fallible then
    match admissible a (nextAnswer s) with
    | .ok => advance n (perform a (takeAnswer s))
    | .err c k => abort c (performFailed a k (takeAnswer s))
  else advance n (perform a s)

/-- One step of the cycle while `BUSY = 1` (rule R120). -/
def seqStep (s : State) : State :=
  match s.tcl[s.tpc]? with
  | none => complete s
  | some call =>
    match (expansion s call)[s.bpc]? with
    | none => callDone (internalEffect s call)
    | some a => busStep a (expansion s call).length s

/-- At most `n` steps of the cycle, while `BUSY = 1` (rule R120). -/
def seqRun : Nat → State → State
  | 0, s => s
  | n + 1, s => if s.busy then seqRun n (seqStep s) else s

/-- A bound on the steps of an operation: a transport call has at most six bus actions, and completion
is one step more (rules R26, R143). -/
def opFuel (s : State) : Nat := 6 * s.tcl.length + 1

/-- The whole cycle of an operation that has been accepted (rule R120). -/
def runToIdle (s : State) : State := seqRun (opFuel s) s

/-- The sequencer at submit: `CUR`, `TCL`, `BUSY <- 1`, `TPC <- 0`, `BPC <- 0` (rule R120). -/
def beginOp (w : HopWord) (calls : List TransportCall) (s : State) : State :=
  { s with cur := w, tcl := calls, busy := true, tpc := 0, bpc := 0 }

/-- A host operation, of word `w`, with its transport calls, its refusal condition and what it does at
its start: no step while `BUSY = 1` (rule R310); refused when the block is dead or the refusal condition
holds (rules R120, R280); else run to its end, because "the host sees its result only after `BUSY`
returns to `0`" (rule R120; log 1). -/
def hostOp (w : HopWord) (calls : List TransportCall) (reject : Bool) (start : State → State)
    (s : State) : Host.Outcome State Fault Refusal :=
  if s.busy then .fault .submitWhileBusy
  else .next (if s.dead || reject then refuse s else runToIdle (start (beginOp w calls s)))

end Sys2Proof.Machine
end

