-- ==== Sys2Proof/Machine/Controller.lean ====
section
/-! DEFINITION. RESET, POWERON, POWEROFF, SLEEP, CONTRAST, INVERT, the page walker SHOW, and INIT (rules
R180 to R192). -/

namespace Sys2Proof.Machine

/-- `RESET_TCL` (rule R180). -/
def resetCalls (c : Cfg) : List TransportCall :=
  if c.hasRes then [.res true, .wait 1, .res false, .wait 20, .res true, .wait 20] else []

/-- `PAGE_TCL(p)` (rule R186). -/
def pageCalls (p : Nat) : List TransportCall :=
  [.cmd (pageCmd p), .cmd lowColCmd, .cmd highColCmd, .dataFb p]

/-- `SHOW_TCL`: the pages in increasing order (rules R187, R188). -/
def showCalls (c : Cfg) : List TransportCall := (List.range c.PAGES).flatMap pageCalls

/-- INIT's transport calls (rule R190). -/
def initCalls (c : Cfg) : List TransportCall :=
  resetCalls c ++ [.fillFb false, .cmd (dispCmd true)] ++ showCalls c

/-- The start of an INIT without a reset line: `LIFECYCLE <- RESET` at once (rule R190); the panel must be
in its reset state, and is undefined when it is not (rules R252, R303; log 14). -/
def initStart (s : State) : State :=
  if s.cfg.hasRes then s
  else
    let s := { s with lifecycle := .reset }
    if s.panel.standing = .inReset then s else s.setRx (s.rx.undefine s.cfg)

/-- RESET (rule R180). -/
def execReset (s : State) : Host.Outcome State Fault Refusal :=
  hostOp (hopWord 0x01 0) (resetCalls s.cfg) false id s

/-- POWERON (rule R181). -/
def execPoweron (s : State) : Host.Outcome State Fault Refusal :=
  hostOp (hopWord 0x02 0) [.cmd (dispCmd true)] false id s

/-- POWEROFF (rule R182). -/
def execPoweroff (s : State) : Host.Outcome State Fault Refusal :=
  hostOp (hopWord 0x03 0) [.cmd (dispCmd false)] false id s

/-- SLEEP (rule R183): active sends what POWEROFF sends, inactive what POWERON sends. -/
def execSleep (v : Byte) (s : State) : Host.Outcome State Fault Refusal :=
  hostOp (hopWord 0x04 v) [.cmd (dispCmd (!immActive v))] false id s

/-- CONTRAST (rule R184): the contrast command, then the level as a second command byte. -/
def execContrast (level : Byte) (s : State) : Host.Outcome State Fault Refusal :=
  hostOp (hopWord 0x05 level) [.cmd contrastCmd, .cmd level] false id s

/-- INVERT (rule R185): an `IMM` other than 0 and 1 is refused. -/
def execInvert (flag : Byte) (s : State) : Host.Outcome State Fault Refusal :=
  hostOp (hopWord 0x06 flag) [.cmd (normInvCmd flag)] (!isFlagImm flag) id s

/-- SHOW (rule R188). -/
def execShow (s : State) : Host.Outcome State Fault Refusal :=
  hostOp (hopWord 0x07 0) (showCalls s.cfg) false id s

/-- INIT (rule R190). -/
def execInit (s : State) : Host.Outcome State Fault Refusal :=
  hostOp (hopWord 0x08 0) (initCalls s.cfg) false initStart s

end Sys2Proof.Machine
end

