-- ==== Sys2Proof/Machine/Framebuffer.lean ====
section
/-! DEFINITION. FILL, FB_WRITE and FB_READ (rules R121 to R127). None has a bus action. -/

namespace Sys2Proof.Machine

/-- `HADDR >= W * PAGES` (rule R124). -/
def haddrOutside (s : State) : Bool := decide (s.cfg.fbSize ≤ s.haddr)

/-- FILL (rule R121): `TCL = [FILLFB(value)]`; an `IMM` other than 0 and 1 is refused. -/
def execFill (value : Byte) (s : State) : Host.Outcome State Fault Refusal :=
  hostOp (hopWord 0x09 value) [.fillFb (immBit value)] (!isFlagImm value) id s

/-- FB_WRITE (rules R124, R125): `TCL = [FBW(HADDR, v)]`. -/
def execFbWrite (v : Byte) (s : State) : Host.Outcome State Fault Refusal :=
  hostOp (hopWord 0x0C v) [.fbw s.haddr v] (haddrOutside s) id s

/-- FB_READ (rules R124, R127): `TCL = [FBR(HADDR)]`. -/
def execFbRead (s : State) : Host.Outcome State Fault Refusal :=
  hostOp (hopWord 0x0D 0) [.fbr s.haddr] (haddrOutside s) id s

end Sys2Proof.Machine
end

