-- ==== Sys2Proof/Machine/PanelUnits.lean ====
section
/-! DEFINITION. The rows of the opcode table that the panel decodes: six commands, the data byte, the
I2C address byte and the four control bytes, each as the panel takes it when it arrives (rules R232,
R233, R240 to R247). A command or a data byte that comes as such a unit is delivered past the frame handler:
on I2C `FH_STATE` stays as it is. On SPI it is delivered past the receiver of rules R236 and R237, by the kind it
names: `LINE_CS`, `LINE_DC`, `SPI_MODE` and `PANEL_MAX_BAUD` are not read. Both are the model's choice, since the
spec gives these units no transaction or transfer of their own (log 17). -/

namespace Sys2Proof.Machine

/-- SET_LOW_COL (rule R246). -/
def execSetLowCol (lo : BitVec 4) (s : State) : Host.Outcome State Fault Refusal :=
  .next (s.setRx (commandByte s.wires (lowColByte lo) (fun r => r.onPanel (Panel.setLowCol lo)) s.rx))

/-- SET_HIGH_COL (rule R247). -/
def execSetHighCol (hi : BitVec 4) (s : State) : Host.Outcome State Fault Refusal :=
  .next (s.setRx (commandByte s.wires (highColByte hi) (fun r => r.onPanel (Panel.setHighCol hi)) s.rx))

/-- SET_CONTRAST: two successive command bytes (rules R90, R241, R242). When a contrast value is already
awaited, the first byte is that value and the second is a command of its own (rule R98). -/
def execSetContrast (level : Byte) (s : State) : Host.Outcome State Fault Refusal :=
  .next (s.setRx
    (deliverCmd s.wires level (commandByte s.wires contrastCmd (fun r => r.onPanel Panel.awaitContrast) s.rx)))

/-- SET_NORM_INV (rule R243). -/
def execSetNormInv (flag : BitVec 1) (s : State) : Host.Outcome State Fault Refusal :=
  .next (s.setRx (commandByte s.wires (normInvByte flag) (fun r => r.onPanel (Panel.setNormInv flag)) s.rx))

/-- SET_DISP (rule R244). -/
def execSetDisp (flag : BitVec 1) (s : State) : Host.Outcome State Fault Refusal :=
  .next (s.setRx (commandByte s.wires (dispByte flag) (fun r => r.onPanel (Panel.setDisp flag)) s.rx))

/-- SET_PAGE (rule R245). -/
def execSetPage (p : BitVec 4) (s : State) : Host.Outcome State Fault Refusal :=
  .next (s.setRx (commandByte s.wires (pageByte p) (fun r => r.onPanel (Panel.setPage p)) s.rx))

/-- DATA_BYTE (rules R238, R240), past the frame handler and the SPI receiver: DESIGN CHOICE (log 17). -/
def execDataByte (d : Byte) (s : State) : Host.Outcome State Fault Refusal :=
  .next (s.setRx (deliverData s.wires d s.rx))

/-- I2C_ADDRESS: the first byte of a transaction (rules R99, R232, R235). -/
def execI2cAddress (a : BitVec 7) (s : State) : Host.Outcome State Fault Refusal :=
  .next (s.setRx (i2cStart s.wires (addrByte a) s.rx))

/-- CTL_ONE_CMD, 0x80 (rules R100, R233). -/
def execCtlOneCmd (s : State) : Host.Outcome State Fault Refusal :=
  .next (s.setRx (i2cByte s.wires s.rx 0x80))

/-- CTL_DATA_STREAM, 0x40 (rules R100, R233). -/
def execCtlDataStream (s : State) : Host.Outcome State Fault Refusal :=
  .next (s.setRx (i2cByte s.wires s.rx 0x40))

/-- CTL_CMD_STREAM, 0x00 (rules R100, R233). -/
def execCtlCmdStream (s : State) : Host.Outcome State Fault Refusal :=
  .next (s.setRx (i2cByte s.wires s.rx 0x00))

/-- CTL_ONE_DATA, 0xC0 (rules R100, R233). -/
def execCtlOneData (s : State) : Host.Outcome State Fault Refusal :=
  .next (s.setRx (i2cByte s.wires s.rx 0xC0))

end Sys2Proof.Machine
end

