-- ==== Sys2Proof/Machine/Transport.lean ====
section
/-! DEFINITION. WRITE_CMD and WRITE_DATA (rules R141, R142). -/

namespace Sys2Proof.Machine

/-- WRITE_CMD (rule R141): `TCL = [CMD(c)]`. -/
def execWriteCmd (c : Byte) (s : State) : Host.Outcome State Fault Refusal :=
  hostOp (hopWord 0x0A c) [.cmd c] false id s

/-- `len(HDATA) > MAX_DATA` (rule R142). -/
def hdataTooLong (s : State) : Bool := decide (s.par.maxData < s.hdata.length)

/-- WRITE_DATA (rule R142): `TCL = [DATA(HDATA)]`. -/
def execWriteData (s : State) : Host.Outcome State Fault Refusal :=
  hostOp (hopWord 0x0B 0) [.data s.hdata] (hdataTooLong s) id s

end Sys2Proof.Machine
end

