-- ==== Sys2Proof/Machine/Dispatch.lean ====
section
/-! DEFINITION. One arm per instruction. -/

namespace Sys2Proof.Machine

/-- What an instruction does. -/
def exec (i : Instr) (s : State) : Host.Outcome State Fault Refusal :=
  match i with
  | .reset => Sys2Proof.Machine.execReset s
  | .poweron => Sys2Proof.Machine.execPoweron s
  | .poweroff => Sys2Proof.Machine.execPoweroff s
  | .sleep v => Sys2Proof.Machine.execSleep v s
  | .contrast level => Sys2Proof.Machine.execContrast level s
  | .invert flag => Sys2Proof.Machine.execInvert flag s
  | .showPages => Sys2Proof.Machine.execShow s
  | .init => Sys2Proof.Machine.execInit s
  | .fill value => Sys2Proof.Machine.execFill value s
  | .writeCmd c => Sys2Proof.Machine.execWriteCmd c s
  | .writeData => Sys2Proof.Machine.execWriteData s
  | .fbWrite v => Sys2Proof.Machine.execFbWrite v s
  | .fbRead => Sys2Proof.Machine.execFbRead s
  | .setLowCol lo => Sys2Proof.Machine.execSetLowCol lo s
  | .setHighCol hi => Sys2Proof.Machine.execSetHighCol hi s
  | .setContrast level => Sys2Proof.Machine.execSetContrast level s
  | .setNormInv flag => Sys2Proof.Machine.execSetNormInv flag s
  | .setDisp flag => Sys2Proof.Machine.execSetDisp flag s
  | .setPage p => Sys2Proof.Machine.execSetPage p s
  | .dataByte d => Sys2Proof.Machine.execDataByte d s
  | .i2cAddress a => Sys2Proof.Machine.execI2cAddress a s
  | .ctlOneCmd => Sys2Proof.Machine.execCtlOneCmd s
  | .ctlDataStream => Sys2Proof.Machine.execCtlDataStream s
  | .ctlCmdStream => Sys2Proof.Machine.execCtlCmdStream s
  | .ctlOneData => Sys2Proof.Machine.execCtlOneData s

end Sys2Proof.Machine
end

