-- ==== Sys2Proof/Machine/Fetch.lean ====
section
/-! DEFINITION. Where the next instruction comes from (rules R74, R120, R310): the operation in progress
goes on; else the next input: a submitted host operation word, bytes at the panel, or something the
outside world does between operations. -/

namespace Sys2Proof.Machine

/-- What a step finds to do. -/
inductive Fetched where
  /-- run an instruction in the given state -/
  | instr (i : Instr) (s : State)
  /-- no instruction: the step leads to the given state -/
  | goes (s : State)
deriving DecidableEq, Repr

/-- Put bytes that are left over back as the next input. -/
def leave (f : WireFormat) (rest : List Byte) (s : State) : State :=
  match rest with
  | [] => s
  | _ :: _ => { s with inputs := .wire f rest :: s.inputs }

/-- A byte that is no instruction, as the panel takes it in its place: a refusal of rules R233 or R248, a
transaction for no one (R235), the first byte of a SET_CONTRAST whose level has not arrived (R241). -/
def undecoded (f : WireFormat) (b : Byte) (s : State) : State :=
  match f with
  | .addr => s.setRx (i2cStart s.wires b s.rx)
  | .ctl => s.setRx (i2cByte s.wires s.rx b)
  | .cmd => s.setRx (deliverCmd s.wires b s.rx)
  | .data => s.setRx (deliverData s.wires b s.rx)

/-- The next thing on the panel's wire. A command byte that arrives while a contrast value is awaited is
that value, whatever its bits (rule R98). The place `f` is the input's own: on SPI no line and no bus mode
chooses it or keeps a byte away, and on I2C a command or data unit does not step the frame handler: DESIGN
CHOICE (log 17). A byte as the SPI receiver takes it is `spiByte` (rules R236, R237). -/
def fetchWire (f : WireFormat) (bytes : List Byte) (s : State) : Fetched :=
  match bytes with
  | [] => .goes s
  | b :: rest =>
    if f = .cmd && s.panel.cpend then .goes (leave f rest (s.setRx (deliverCmd s.wires b s.rx)))
    else
      match decodeWire f (b :: rest) with
      | .ok (i, rest') => .instr i (leave f rest' s)
      | .error _ => .goes (leave f rest (undecoded f b s))

/-- A submit (rule R120): refused when `HOP` has not been written or holds a reserved word. -/
def fetchSubmit (s : State) : Fetched :=
  if s.hopWritten then
    match decodeHop s.hop with
    | .ok i => .instr i s
    | .error _ => .goes (refuse s)
  else .goes (refuse s)

/-- The next input, already taken from the list. -/
def fetchInput (input : Input) (s : State) : Fetched :=
  match input with
  | .writeHop w => .goes { s with hop := w, hopWritten := true }
  | .writeHaddr a => .goes { s with haddr := a }
  | .writeHdata l => .goes { s with hdata := l }
  | .submit => fetchSubmit s
  | .otherDevice m => .goes { s with spiMode := m }
  | .externalReset => .goes (s.setRx (s.rx.panelReset s.wires))
  | .wire f bytes => fetchWire f bytes s
  | .stop => .goes (s.setRx (i2cStop s.rx))

/-- What the next step does. While `BUSY = 1` no input is taken (rule R310); with no input the block waits
(rule R301; log 24). -/
def fetch (s : State) : Fetched :=
  if s.busy then .goes (seqStep s)
  else
    match s.inputs with
    | [] => .goes s
    | input :: rest => fetchInput input { s with inputs := rest }

end Sys2Proof.Machine
end

