-- ==== Sys2Proof/Machine/Step.lean ====
section
/-! DEFINITION. One step of the machine, and how a given instruction is put where the next step fetches
it. -/

namespace Sys2Proof.Machine

/-- One step: what `fetch` finds is run. -/
def step (s : State) : Host.Outcome State Fault Refusal :=
  match fetch s with
  | .instr i s' => exec i s'
  | .goes s' => .next s'

/-- The state `s` with the table word `w` of `nbits` bits put where `step` fetches its next instruction
(log 19): 16 bits are written to `HOP` and submitted; a byte is put on the panel's wire, in the place
that `tableFormat` reads it in. The operation in progress, if any, is given up, since no input is taken
while `BUSY = 1` (rule R310). A command byte needs `P_CPEND = 0` (rule R98), a control byte needs the
frame handler in `CTRL` (rule R233). -/
def State.withFetchWord (s : State) (nbits w : Nat) : State :=
  if nbits = 16 then
    { s with
      hop := BitVec.ofNat 16 w
      hopWritten := true
      busy := false
      inputs := .submit :: s.inputs }
  else
    let b := BitVec.ofNat 8 w
    let f := tableFormat b
    { s with
      busy := false
      inputs := .wire f (tableBytes b) :: s.inputs
      panel :=
        { s.panel with
          cpend := if f = .cmd then false else s.panel.cpend
          fh := if f = .ctl then .ctrl else s.panel.fh } }

end Sys2Proof.Machine
end

