-- ==== Sys2Proof/Machine/Construct.lean ====
section
/-! DEFINITION. Construction: the checks and the state they leave (rules R49, R270, R275, R300, R301).
State.reset is one construction, that of the scenario's parameters. -/

namespace Sys2Proof.Machine

/-- What rule R49 leaves unspecified after construction. -/
structure PowerUp where
  hop : HopWord
  haddr : Nat
  hdata : List Byte
  hres : Byte
  cur : HopWord
  tcl : List TransportCall
  spiMode : SpiMode
  page : BitVec 4
  col : BitVec 8
  lit : Bool
  inverted : Bool
  contrast : Byte
  cpend : Bool
deriving DecidableEq, Repr

/-- The values that State.reset names for them: DESIGN CHOICE (log 3). -/
def PowerUp.zero : PowerUp :=
  { hop := 0, haddr := 0, hdata := [], hres := 0, cur := 0, tcl := [],
    spiMode := { baud := 0, pol := 0, pha := 0 }, page := 0, col := 0, lit := false,
    inverted := false, contrast := 0, cpend := false }

/-- The `CAUSE` of the first construction check that fails, in the order of rule R300. -/
def constructionCause (c : Cfg) : Option (BitVec 2) :=
  if c.width ≤ 0 then some 0
  else if c.height ≤ 0 ∨ c.height % 8 ≠ 0 then some 1
  else if 16 < c.height / 8 then some 2
  else if c.bus = .i2c ∧ 0x7F < c.i2cAddr then some 3
  else none

/-- The parameters describe a block: a CS line only on SPI, a positive rate on SPI, `MAX_DATA >= W` (rules
R6, R7, R300). -/
def legalParams (c : Cfg) (p : OpenParams) : Bool :=
  (c.bus == .spi || !c.hasCs) && (c.bus == .i2c || decide (0 < c.spiBaud)) && decide (c.W ≤ p.maxData)

/-- `HSTAT` after construction (rules R27, R270). -/
def constructionHstat (c : Cfg) : BitVec 32 :=
  match constructionCause c with
  | none => mkHstat kindOk 0 0 0
  | some cause => mkHstat kindConstruction cause 0 0

/-- The state after construction (rules R49, R301). Parameters that describe no block are refused, and the
block never becomes operational (rule R300; log 23). -/
def construct (c : Cfg) (p : OpenParams) (u : PowerUp) : State :=
  { hop := u.hop
    hopWritten := false
    haddr := u.haddr
    hdata := u.hdata
    hres := u.hres
    busy := false
    cur := u.cur
    tcl := u.tcl
    tpc := 0
    bpc := 0
    hstat := constructionHstat c
    cfg := c
    par := p
    lifecycle := .unknown
    initDone := false
    refused := !legalParams c p
    dead := (constructionCause c).isSome || !legalParams c p
    lineRes := .x
    lineDc := .x
    lineCs := .x
    spiMode := u.spiMode
    fb := []
    panel :=
      { pram := [], ramDraw := 0, page := u.page, col := u.col, lit := u.lit,
        inverted := u.inverted, contrast := u.contrast, cpend := u.cpend, fh := .dropped,
        phase := .idle, standing := .ordinary }
    trace := []
    answers := []
    inputs := []
    draws := 1 }

end Sys2Proof.Machine
end

