-- ==== Sys2Proof/Safety.lean ====
section
/-! DEFINITION. The terms claims are made in: what a run needs from the host, the bus environment and the
board, what an operation that ends without error leaves, and the invariant of the machine. -/

namespace Sys2Proof.Machine

/-! ## Premises -/

/-- The block takes a submit: it is idle and its construction did not fail (rules R32, R310). -/
def State.accepts (s : State) : Prop := s.busy = false ∧ s.dead = false

/-- The next `n` answers of the bus environment are success: "a claim that no error occurs takes it as a
premise" (rule R272). -/
def State.answersOk (s : State) (n : Nat) : Prop := s.answers.take n = List.replicate n .ok

/-- The number of fallible bus actions of a transport call (rules R66, R143). -/
def callLoad (c : Cfg) : TransportCall → Nat
  | .cmd _ => if c.bus = .i2c then 1 else 2
  | .data _ => if c.bus = .i2c then 1 else 2
  | .dataFb _ => if c.bus = .i2c then 1 else 2
  | .res _ => 0
  | .wait _ => 0
  | .fillFb _ => 0
  | .fbw _ _ => 0
  | .fbr _ => 0

/-- The number of fallible bus actions of a list of transport calls. -/
def busLoad (c : Cfg) (calls : List TransportCall) : Nat := (calls.map (callLoad c)).sum

/-- The board's part (rules R237, R303): on I2C the panel answers the address the block sends, on SPI the
panel takes the block's rate. -/
def State.wired (s : State) : Prop :=
  match s.cfg.bus with
  | .i2c => selectsPanel s.wires (cfgAddrByte s.cfg) = true
  | .spi => s.cfg.spiBaud ≤ s.par.panelMaxBaud

/-- The panel takes the next byte by the rules: its fields are modelled and no reset is in progress (rules
R249, R252, R280). -/
def State.hears (s : State) : Prop :=
  s.panel.standing.known = true ∧ duringReset s.wires s.rx = false

/-- The panel takes what the block's operations send: INIT is done (rule R191), the panel hears, the board
is wired. -/
def State.panelListens (s : State) : Prop := s.initDone = true ∧ s.hears ∧ s.wired

/-! ## What an operation leaves -/

/-- The bus actions of a list of transport calls, in order (rule R143). -/
def wireOf (s : State) (calls : List TransportCall) : List BusAction := calls.flatMap (expansion s)

/-- What no operation writes: the host's registers, `CFG`, the open parameters, `DEAD`, the inputs (rules
R21 to R23, R28, R32). -/
def sameHost (s t : State) : Prop :=
  t.hop = s.hop ∧ t.hopWritten = s.hopWritten ∧ t.haddr = s.haddr ∧ t.hdata = s.hdata ∧
    t.cfg = s.cfg ∧ t.par = s.par ∧ t.dead = s.dead ∧ t.inputs = s.inputs

/-- The sequencer and the status after an operation of word `w` with transport calls `calls` that ended
without error: `HSTAT` holds `KIND 0` and the opcode (rule R271), `TPC` stands at the end (rule R26). -/
def endedOk (w : HopWord) (calls : List TransportCall) (t : State) : Prop :=
  t.busy = false ∧ t.cur = w ∧ t.tcl = calls ∧ t.tpc = calls.length ∧ t.bpc = 0 ∧
    t.hstat = (0#16 ++ (opcOf w ++ 0#8))

/-- An operation without FB access ended without error: the wire trace has grown by exactly the bus
actions of `calls`, each fallible one took one answer, and `FB` and `HRES` are unchanged. -/
def completesAs (w : HopWord) (calls : List TransportCall) (s t : State) : Prop :=
  endedOk w calls t ∧ sameHost s t ∧ t.trace = s.trace ++ wireOf s calls ∧
    t.answers = s.answers.drop (busLoad s.cfg calls) ∧ t.fb = s.fb ∧ t.hres = s.hres

/-- The lines and the bus mode after an operation that sent something and ended without error: on I2C as
before; on SPI the mode is the block's, D/C is at the level of the last call, CS is high if there is one
(rules R150, R155). RES is as before. -/
def linesAfter (dc : Level) (s t : State) : Prop :=
  t.lineRes = s.lineRes ∧
    match s.cfg.bus with
    | .i2c => t.lineDc = s.lineDc ∧ t.lineCs = s.lineCs ∧ t.spiMode = s.spiMode
    | .spi => t.lineDc = dc ∧ t.lineCs = (if s.cfg.hasCs then .hi else s.lineCs) ∧
        t.spiMode = { baud := s.cfg.spiBaud, pol := 0, pha := 0 }

/-- What an operation without bus action leaves as it was: the panel's side, the lines, the bus mode, the
wire trace, the answers, `LIFECYCLE`, `INIT_DONE` (rule R126). -/
def sameDevice (s t : State) : Prop :=
  t.rx = s.rx ∧ t.wires = s.wires ∧ t.trace = s.trace ∧ t.answers = s.answers ∧
    t.lifecycle = s.lifecycle ∧ t.initDone = s.initDone

/-- A panel state between two transfers: on I2C the frame handler's state is dropped at the stop condition
(rule R234). A panel whose fields are drawn (rules R252, R280) keeps the drawn one. -/
def settled (c : Cfg) (p : Panel) : Panel :=
  match c.bus with
  | .i2c => if p.standing.known then { p with fh := .dropped } else p
  | .spi => p

/-- The panel's side with its panel fields replaced: nothing is refused and nothing drawn. -/
def withPanel (s : State) (p : Panel) : Rx := { panel := p, refused := s.refused, draws := s.draws }

/-- The panel is in `PANEL_RESET` (rule R249): the fields that `PANEL_RESET` gives hold what it gives,
`P_CPEND` is 0, the frame handler is dropped, and no byte has arrived since. -/
def inPanelReset (par : OpenParams) (p : Panel) : Prop :=
  p.pram = par.panelReset.pram ∧
    (∀ v, par.panelReset.page = some v → p.page = v) ∧ (∀ v, par.panelReset.col = some v → p.col = v) ∧
    (∀ v, par.panelReset.lit = some v → p.lit = v) ∧
    (∀ v, par.panelReset.inverted = some v → p.inverted = v) ∧
    (∀ v, par.panelReset.contrast = some v → p.contrast = v) ∧
    p.cpend = false ∧ p.fh = .dropped ∧ p.phase = .idle ∧ p.standing = .inReset

/-- The panel fields are those of draw `k`, all of them: `PRAM`, `P_PAGE`, `P_COL`, `P_ON`, `P_INV`,
`P_CONTRAST`, `P_CPEND`, `FH_STATE` (rule R252). -/
def drawnAt (c : Cfg) (k : Nat) (p : Panel) : Prop :=
  p.pram = [] ∧ p.ramDraw = k ∧ p.page = Config.anyPage k ∧ p.col = Config.anyCol k ∧
    p.lit = Config.anyOn k ∧ p.inverted = Config.anyInv k ∧ p.contrast = Config.anyContrast k ∧
    p.cpend = Config.anyCpend k ∧ p.fh = drawnFh c k

/-- The display memory holds page `pg` of the framebuffer of `s` (rule R189). -/
def pageShown (s : State) (p : Panel) (pg : Nat) : Prop :=
  ∀ x, x < s.cfg.W → pramByte p pg (x + 2) = fbByte s (pg * s.cfg.W + x)

/-- The image fits the panel: `W + 2 <= PANEL_COLS`, `PAGES <= PANEL_PAGES` (rule R189), and the column
address one past the image fits the 8 bits of `P_COL` (rule R42; log 11). -/
def State.fits (s : State) : Prop :=
  s.cfg.W + 2 ≤ s.par.panelCols ∧ s.cfg.PAGES ≤ s.par.panelPages ∧ s.cfg.W + 2 < 256

/-! ## Operations as a whole -/

/-- The rows of format HOP: the host operations (rules R90, R93). -/
def isHostOp (i : Instr) : Bool :=
  match encode i with
  | .hop _ => true
  | .wire _ _ => false

/-- The opcode of a host operation (rule R93); 0 for a unit of the panel's wire. -/
def opcodeOf (i : Instr) : Byte :=
  match encode i with
  | .hop w => opcOf w
  | .wire _ _ => 0

/-- The transport calls of a host operation, by the rule of each (rules R121, R125, R127, R141, R142, R180
to R190). -/
def opCalls (i : Instr) (s : State) : List TransportCall :=
  match i with
  | .reset => resetCalls s.cfg
  | .poweron => [.cmd 0xAF]
  | .poweroff => [.cmd 0xAE]
  | .sleep v => [.cmd (if v = 0 then 0xAF else 0xAE)]
  | .contrast level => [.cmd 0x81, .cmd level]
  | .invert flag => [.cmd (0xA6 ||| flag)]
  | .showPages => showCalls s.cfg
  | .init => initCalls s.cfg
  | .fill value => [.fillFb (value == 1)]
  | .writeCmd c => [.cmd c]
  | .writeData => [.data s.hdata]
  | .fbWrite v => [.fbw s.haddr v]
  | .fbRead => [.fbr s.haddr]
  | .setLowCol _ => []
  | .setHighCol _ => []
  | .setContrast _ => []
  | .setNormInv _ => []
  | .setDisp _ => []
  | .setPage _ => []
  | .dataByte _ => []
  | .i2cAddress _ => []
  | .ctlOneCmd => []
  | .ctlDataStream => []
  | .ctlCmdStream => []
  | .ctlOneData => []

/-- The operand of the operation is in its legal set (rules R92, R124, R142). -/
def operandLegal (i : Instr) (s : State) : Bool :=
  WellFormed i &&
    match i with
    | .writeData => decide (s.hdata.length ≤ s.par.maxData)
    | .fbWrite _ => decide (s.haddr < s.cfg.fbSize)
    | .fbRead => decide (s.haddr < s.cfg.fbSize)
    | .reset | .poweron | .poweroff | .sleep _ | .contrast _ | .invert _ | .showPages | .init | .fill _
    | .writeCmd _ | .setLowCol _ | .setHighCol _ | .setContrast _ | .setNormInv _ | .setDisp _ | .setPage _
    | .dataByte _ | .i2cAddress _ | .ctlOneCmd | .ctlDataStream | .ctlCmdStream | .ctlOneData => true

/-- The state whose framebuffer an operation sends from: INIT has filled it with 0 before its first page
(rule R190), every other operation sends it as it finds it (rule R71). -/
def sentFrom (i : Instr) (s : State) : State := if i = .init then fillAll s false else s

/-- A reserved host operation word: `OPC` selects no operation, or `IMM` is outside the legal set of its
operation (rules R92, R94). -/
def HopReserved (w : HopWord) : Prop :=
  (opcOf w).toNat = 0 ∨ 0x0E ≤ (opcOf w).toNat ∨
    ((opcOf w).toNat ∈ [0x01, 0x02, 0x03, 0x07, 0x08, 0x0B, 0x0D] ∧ (immOf w).toNat ≠ 0) ∨
    ((opcOf w).toNat ∈ [0x06, 0x09] ∧ 1 < (immOf w).toNat)

/-- The level of a line after a list of bus actions: that of the last `PIN` on it, else as before (rules
R33, R66). -/
def drivenBy (acts : List BusAction) (line : Line) (lv : Level) : Level :=
  acts.foldl (fun lv a => if a = .pin line true then .hi else if a = .pin line false then .lo else lv) lv

/-! ## The invariant -/

/-- A transport call the block can have in `TCL`: `RES` only with a reset line (rule R180), framebuffer
accesses inside `FB` (rule R62). -/
def callLegal (c : Cfg) : TransportCall → Prop
  | .cmd _ => True
  | .data _ => True
  | .dataFb p => p < c.PAGES
  | .res _ => c.hasRes = true
  | .wait _ => True
  | .fillFb _ => True
  | .fbw i _ => i < c.fbSize
  | .fbr i => i < c.fbSize

/-- `HSTAT` as rule R27 allows: bits 7..4 are 0, `KIND` 3 is never written, and with `KIND` 0 the cause and
the step are 0. -/
def hstatLegal (h : BitVec 32) : Prop :=
  hstatReserved h = 0 ∧ hstatKind h ≠ 3 ∧ (hstatKind h = 0 → hstatCause h = 0 ∧ hstatStep h = 0)

/-- Every byte written to the display memory lies inside it (rules R40, R240). -/
def pramInside (p : OpenParams) (m : Memory) : Prop :=
  ∀ c ∈ m, ∃ pg col, c.1 = pramAddr pg col ∧ pg < p.panelPages ∧ col < p.panelCols

/-- The invariant of the machine. -/
structure Inv (s : State) : Prop where
  /-- `FB` is in canonical form -/
  fbWf : Memory.wf s.fb = true
  /-- `FB` has `W * PAGES` bytes (rule R35) -/
  fbInside : ∀ c ∈ s.fb, c.1 < s.cfg.fbSize
  /-- `PRAM` is in canonical form -/
  pramWf : Memory.wf s.panel.pram = true
  pramInside : pramInside s.par s.panel.pram
  resetPramWf : Memory.wf s.par.panelReset.pram = true
  resetPramInside : Machine.pramInside s.par s.par.panelReset.pram
  /-- the operation in progress (rules R25, R26, R62) -/
  calls : s.busy = true → s.tpc ≤ s.tcl.length ∧ ∀ call ∈ s.tcl, callLegal s.cfg call
  hstat : hstatLegal s.hstat
  /-- only lines that exist are driven (rule R33) -/
  noRes : s.cfg.hasRes = false → s.lineRes = .x
  noDc : s.cfg.bus = .i2c → s.lineDc = .x
  noCs : s.cfg.bus = .i2c ∨ s.cfg.hasCs = false → s.lineCs = .x
  /-- a dead block runs nothing and has emitted nothing (rule R32) -/
  deadQuiet : s.dead = true → s.busy = false ∧ s.trace = []

end Sys2Proof.Machine
end

