-- ==== Sys2Proof/Certificates/Slice0/Obligations.lean ====
section
/-! DEFINITION. The statements. -/

open Sys2Proof Sys2Proof.Machine

/-! ## Encodings -/

/-- Decoding the encoding of a well-formed instruction gives the instruction, with every operand at every
value the encoding admits (rules R90, R93, R95, R99, R100, R102). -/
def Obligations.DecodeOfEncodeIsTheInstruction : Prop :=
  ∀ i : Instr, WellFormed i = true → decode (encode i) = .ok i

/-- Each word or byte has one meaning: what decodes is exactly the encoding of what it decodes to (rules
R93, R95, R98, R100). -/
def Obligations.DecodedWordEncodesBack : Prop :=
  ∀ (e : Encoded) (i : Instr), decode e = .ok i → encode i = e ∧ WellFormed i = true

/-- Words written out from the encoding tables of rules R93, R95, R99 and R100. -/
def Obligations.SampleWordsDecode : Prop :=
  decode (.hop 0b0000000100000000#16) = .ok .reset ∧
  decode (.hop 0b0000010010000000#16) = .ok (.sleep 0x80) ∧
  decode (.hop 0b0000011000000001#16) = .ok (.invert 1) ∧
  decode (.hop 0b0000110010000001#16) = .ok (.fbWrite 0x81) ∧
  decode (.wire .cmd [0b00000101#8]) = .ok (.setLowCol 5) ∧
  decode (.wire .cmd [0b10000001#8, 0b01111111#8]) = .ok (.setContrast 0x7F) ∧
  decode (.wire .cmd [0b10110011#8]) = .ok (.setPage 3) ∧
  decode (.wire .data [0b10110011#8]) = .ok (.dataByte 0xB3) ∧
  decode (.wire .addr [0b01111000#8]) = .ok (.i2cAddress 0x3C) ∧
  decode (.wire .ctl [0b10000000#8]) = .ok .ctlOneCmd ∧
  decode (.wire .ctl [0b01000000#8]) = .ok .ctlDataStream

/-- Rule R94: the reserved words are exactly those that decode to no operation, and a submit of one changes
`REFUSED` and nothing else (the submit itself is used up). -/
def Obligations.ReservedWordIsRefused : Prop :=
  (∀ w : HopWord, HopReserved w ↔ ∃ e, decodeHop w = .error e) ∧
  ∀ (s : State) (rest : List Input), s.busy = false → s.inputs = .submit :: rest → HopReserved s.hop →
    step s = .next { s with inputs := rest, refused := true }

/-! ## A step -/

/-- A step runs the decoded instruction: a submitted operation word (rule R120), or the next unit on the
panel's wire. That such units come as an input that names the place they stand in, and that the left-over
bytes stay the next input, is the model's choice (log 17). -/
def Obligations.StepRunsTheDecodedInstruction : Prop :=
  (∀ (s : State) (rest : List Input) (i : Instr), s.busy = false → s.inputs = .submit :: rest →
    s.hopWritten = true → decodeHop s.hop = .ok i → step s = exec i { s with inputs := rest }) ∧
  ∀ (s : State) (rest : List Input) (f : WireFormat) (bytes left : List Byte) (i : Instr),
    s.busy = false → s.inputs = .wire f bytes :: rest → decodeWire f bytes = .ok (i, left) →
    ¬(f = .cmd ∧ s.panel.cpend = true) →
    step s = exec i { s with inputs := if left = [] then rest else .wire f left :: rest }

/-- What a step does that runs no instruction. The host writes its registers (rules R21, R22, R23), another
device sets `SPI_MODE` (rule R34), a submit before `HOP` has been written is refused (rule R120), and while
`BUSY = 1` the operation goes on and no input is taken (rule R310). External means put the panel in
`PANEL_RESET` (rule R303; as an input: log 14), but for one no longer modelled (log 12); a stop condition
drops the frame handler (rule R234; a drawn one stays: log 13). Of the bytes that decode to no instruction (as
an input: log 17), a command byte is the awaited contrast value (rule R98), an address byte that asks to read
delivers nothing (rules R232, R235) and drops the frame handler (log 16), also of a panel whose fields are
undefined (log 13), and a reserved control byte is taken by the frame
handler in the state it is in (rule R233). An idle block with no input stays as it is (log 24). -/
def Obligations.StepTakesTheOtherInputs : Prop :=
  ∀ (s : State) (rest : List Input),
    (s.busy = true → step s = .next (seqStep s) ∧ (seqStep s).inputs = s.inputs) ∧
    (s.busy = false →
      (s.inputs = [] → step s = .next s) ∧
      (∀ w, s.inputs = .writeHop w :: rest →
        step s = .next { s with inputs := rest, hop := w, hopWritten := true }) ∧
      (∀ a, s.inputs = .writeHaddr a :: rest → step s = .next { s with inputs := rest, haddr := a }) ∧
      (∀ l, s.inputs = .writeHdata l :: rest → step s = .next { s with inputs := rest, hdata := l }) ∧
      (∀ m, s.inputs = .otherDevice m :: rest → step s = .next { s with inputs := rest, spiMode := m }) ∧
      (s.inputs = .submit :: rest → s.hopWritten = false →
        step s = .next { s with inputs := rest, refused := true }) ∧
      (s.inputs = .externalReset :: rest →
        ∃ t, step s = .next t ∧ t = { s with inputs := rest, panel := t.panel, draws := t.draws } ∧
          (s.panel.standing ≠ .abandoned → inPanelReset s.par t.panel) ∧
          (s.panel.standing = .abandoned →
            t.panel.standing = .abandoned ∧ drawnAt s.cfg (t.draws - 1) t.panel)) ∧
      (s.inputs = .stop :: rest →
        step s = .next { s with
          inputs := rest
          panel := { s.panel with
            fh := if s.panel.standing.known = true then .dropped else s.panel.fh } }) ∧
      (∀ f, s.inputs = .wire f [] :: rest → step s = .next { s with inputs := rest }) ∧
      ∀ b left,
        (s.inputs = .wire .cmd (b :: left) :: rest → s.panel.cpend = true →
          step s = .next { s.setRx (deliverCmd s.wires b s.rx) with
            inputs := if left = [] then rest else .wire .cmd left :: rest }) ∧
        (s.inputs = .wire .addr (b :: left) :: rest → b.getLsbD 0 = true → s.cfg.bus = .i2c →
          s.panel.standing ≠ .abandoned →
          step s = .next { s with
            inputs := if left = [] then rest else .wire .addr left :: rest
            panel := { s.panel with fh := .dropped } }) ∧
        (s.inputs = .wire .ctl (b :: left) :: rest → b.extractLsb' 0 6 ≠ 0 →
          step s = .next { s.setRx (i2cByte s.wires s.rx b) with
            inputs := if left = [] then rest else .wire .ctl left :: rest }))

/-! ## Construction -/

/-- Rule R49: the state after construction, for whatever the registers and the panel held that the rule
leaves unspecified (the argument `u`). That a framebuffer byte is a free value of its index (log 7) and a
display-memory byte a free value of its place (log 8) is the model's form of "unspecified". -/
def Obligations.ConstructionLeavesTheTableState : Prop :=
  ∀ (c : Cfg) (p : OpenParams) (u : PowerUp), legalParams c p = true →
    (construct c p u).busy = false ∧ (construct c p u).tpc = 0 ∧ (construct c p u).bpc = 0 ∧
    (construct c p u).cfg = c ∧ (construct c p u).lifecycle = .unknown ∧
    (construct c p u).initDone = false ∧ (construct c p u).refused = false ∧
    (construct c p u).hopWritten = false ∧ (construct c p u).trace = [] ∧
    (construct c p u).lineRes = .x ∧ (construct c p u).lineDc = .x ∧ (construct c p u).lineCs = .x ∧
    (∀ i, fbByte (construct c p u) i = Config.anyFbByte i) ∧
    (∀ pg col, pramByte (construct c p u).panel pg col = Config.anyPram 0 (pramAddr pg col)) ∧
    (construct c p u).hop = u.hop ∧ (construct c p u).haddr = u.haddr ∧ (construct c p u).hdata = u.hdata ∧
    (construct c p u).hres = u.hres ∧ (construct c p u).spiMode = u.spiMode ∧
    (construct c p u).cur = u.cur ∧ (construct c p u).tcl = u.tcl ∧
    (construct c p u).panel.page = u.page ∧ (construct c p u).panel.col = u.col ∧
    (construct c p u).panel.lit = u.lit ∧ (construct c p u).panel.inverted = u.inverted ∧
    (construct c p u).panel.contrast = u.contrast ∧ (construct c p u).panel.cpend = u.cpend ∧
    (constructionCause c = none → (construct c p u).hstat = 0 ∧ (construct c p u).dead = false) ∧
    (∀ cause, constructionCause c = some cause →
      (construct c p u).hstat = 0#28 ++ cause ++ 1#2 ∧ (construct c p u).dead = true)

/-- Rule R300: the checks in their order, each with the `HSTAT` its `CAUSE` gives. Parameters that describe
no block (rules R6, R7) are refused: that they leave `DEAD = 1` and the `HSTAT` of the checks is the model's
choice (log 23). -/
def Obligations.ConstructionChecksInOrder : Prop :=
  ∀ (c : Cfg) (p : OpenParams) (u : PowerUp),
    (c.width ≤ 0 → (construct c p u).hstat = 0x00000001 ∧ (construct c p u).dead = true) ∧
    (0 < c.width → c.height ≤ 0 ∨ c.height % 8 ≠ 0 →
      (construct c p u).hstat = 0x00000005 ∧ (construct c p u).dead = true) ∧
    (0 < c.width → 0 < c.height → c.height % 8 = 0 → 16 < c.height / 8 →
      (construct c p u).hstat = 0x00000009 ∧ (construct c p u).dead = true) ∧
    (0 < c.width → 0 < c.height → c.height % 8 = 0 → c.height / 8 ≤ 16 →
      (c.bus = .i2c → 0x7F < c.i2cAddr →
        (construct c p u).hstat = 0x0000000D ∧ (construct c p u).dead = true) ∧
      (c.bus = .spi ∨ c.i2cAddr ≤ 0x7F →
        (construct c p u).hstat = 0 ∧
        ((c.bus = .spi → 0 < c.spiBaud) → (c.bus = .i2c → c.hasCs = false) → c.width ≤ p.maxData →
          (construct c p u).dead = false ∧ (construct c p u).refused = false))) ∧
    (c.bus = .spi ∧ c.spiBaud = 0 ∨ c.bus = .i2c ∧ c.hasCs = true ∨ (p.maxData : Int) < c.width →
      (construct c p u).refused = true ∧ (construct c p u).dead = true)

/-- The state the row starts from is one construction: that of the scenario's parameters (log 4, log 5),
with the registers that rule R49 leaves unspecified at 0 (log 3): the model's choice of values. -/
def Obligations.ResetStateIsAConstruction : Prop :=
  State.reset = construct scenarioCfg scenarioParams PowerUp.zero ∧
    constructionCause scenarioCfg = none ∧ legalParams scenarioCfg scenarioParams = true

/-- Rule R32: `DEAD` says that construction failed, by a check of rule R300 or, the model's choice, by
parameters that describe no block (log 23). Every submit to a dead block is refused, and a dead block never
emits a bus action. -/
def Obligations.DeadBlockRefusesAndEmitsNothing : Prop :=
  (∀ (c : Cfg) (p : OpenParams) (u : PowerUp),
    (construct c p u).dead = true ↔ constructionCause c ≠ none ∨ legalParams c p = false) ∧
  (∀ (i : Instr) (s : State), isHostOp i = true → s.busy = false → s.dead = true →
    exec i s = .next { s with refused := true }) ∧
  ∀ s t : State, s.dead = true → s.busy = false → step s = .next t →
    t.dead = true ∧ t.busy = false ∧ t.trace = s.trace

/-! ## Framebuffer operations -/

/-- Rule R121: FILL writes every byte, sends nothing, and refuses an immediate other than 0 and 1. -/
def Obligations.FillWritesEveryByte : Prop :=
  ∀ (s : State) (v : Byte), s.accepts →
    (v = 0 ∨ v = 1 →
      ∃ t, exec (.fill v) s = .next t ∧ endedOk (hopWord 0x09 v) [.fillFb (v == 1)] t ∧
        sameHost s t ∧ sameDevice s t ∧ t.hres = s.hres ∧
        (∀ i, i < s.cfg.fbSize → fbByte t i = if v = 1 then 0xFF else 0x00) ∧
        ((∀ c ∈ s.fb, c.1 < s.cfg.fbSize) → ∀ i, s.cfg.fbSize ≤ i → fbByte t i = fbByte s i) ∧
        (constructionCause s.cfg = none →
          ∀ x y, x < s.cfg.W → y < s.cfg.H → pixel t x y = (v == 1))) ∧
    (v ≠ 0 → v ≠ 1 → exec (.fill v) s = .next { s with refused := true })

/-- Rule R125: FB_WRITE stores its immediate at `HADDR`, one column of eight pixels, and changes no other byte
and nothing of the device; an index outside the framebuffer is refused (rule R124). -/
def Obligations.FbWriteWritesOneByte : Prop :=
  ∀ (s : State) (v : Byte), s.accepts →
    (s.haddr < s.cfg.fbSize →
      ∃ t, exec (.fbWrite v) s = .next t ∧ endedOk (hopWord 0x0C v) [.fbw s.haddr v] t ∧
        sameHost s t ∧ sameDevice s t ∧ t.hres = s.hres ∧
        (∀ i, fbByte t i = if i = s.haddr then v else fbByte s i) ∧
        ∀ x y, pixel t x y =
          if (y / 8) * s.cfg.W + x = s.haddr then v.getLsbD (y % 8) else pixel s x y) ∧
    (s.cfg.fbSize ≤ s.haddr → exec (.fbWrite v) s = .next { s with refused := true })

/-- Rule R127: FB_READ copies the byte at `HADDR` to `HRES` and changes nothing of the framebuffer or the
device; an index outside the framebuffer is refused (rule R124); an immediate other than 0 decodes to no
operation. The unspecified value of a byte never written is a free value of its index, the same at every read:
the model's choice (log 7). -/
def Obligations.FbReadReadsOneByte : Prop :=
  (∀ s : State, s.accepts →
    (s.haddr < s.cfg.fbSize →
      ∃ t, exec .fbRead s = .next t ∧ endedOk (hopWord 0x0D 0) [.fbr s.haddr] t ∧
        sameHost s t ∧ sameDevice s t ∧ t.fb = s.fb ∧ t.hres = fbByte s s.haddr ∧
        (Memory.byte? s.fb s.haddr = none → t.hres = Config.anyFbByte s.haddr)) ∧
    (s.cfg.fbSize ≤ s.haddr → exec .fbRead s = .next { s with refused := true })) ∧
  ∀ imm : Byte, imm ≠ 0 → decodeHop (hopWord 0x0D imm) = .error .reservedImm

/-- Rule R123: FB_READ then FB_WRITE of the byte with one bit replaced sets one pixel and leaves
every other pixel as it was. -/
def Obligations.ReadModifyWriteSetsOnePixel : Prop :=
  ∀ (s : State) (x y : Nat) (v : Bool), s.accepts → x < s.cfg.W → y < 8 * s.cfg.PAGES →
    s.haddr = (y / 8) * s.cfg.W + x →
    ∃ t, exec .fbRead s = .next t ∧
      ∃ u, exec (.fbWrite ((t.hres &&& ~~~(1#8 <<< (y % 8))) ||| ((if v then 1#8 else 0#8) <<< (y % 8)))) t
          = .next u ∧
        pixel u x y = v ∧
        ∀ x' y', x' < s.cfg.W → (x', y') ≠ (x, y) → pixel u x' y' = pixel s x' y'

/-- Rule R126: whatever a framebuffer operation meets, it touches no line, `SPI_MODE`, `LIFECYCLE`,
`INIT_DONE` or panel field, emits nothing, and reports no TransportError. -/
def Obligations.FramebufferOpsTouchNoDevice : Prop :=
  ∀ (i : Instr) (s t : State), i = .fbRead ∨ (∃ v, i = .fbWrite v) ∨ (∃ v, i = .fill v) →
    exec i s = .next t →
    t.lineRes = s.lineRes ∧ t.lineDc = s.lineDc ∧ t.lineCs = s.lineCs ∧ t.spiMode = s.spiMode ∧
      t.lifecycle = s.lifecycle ∧ t.initDone = s.initDone ∧ t.panel = s.panel ∧ t.trace = s.trace ∧
      (t.hstat = s.hstat ∨ hstatKind t.hstat = 0)

/-! ## Transport -/

/-- Rule R143: the bus actions of every transport call on each transport, with the address byte of rule R99
and the data of a page read from `FB`. -/
def Obligations.ExpansionTable : Prop :=
  ∀ (s : State) (c : Byte) (l : List Byte) (p : Nat),
    (s.cfg.bus = .i2c →
      expansion s (.cmd c) = [.i2cTxn [BitVec.ofNat 8 (2 * s.cfg.i2cAddr), 0x80, c]] ∧
      expansion s (.data l) = [.i2cTxn ([BitVec.ofNat 8 (2 * s.cfg.i2cAddr), 0x40] ++ l)]) ∧
    (s.cfg.bus = .spi → s.cfg.hasCs = true →
      expansion s (.cmd c) =
        [.spiCfg { baud := s.cfg.spiBaud, pol := 0, pha := 0 }, .pin .cs true, .pin .dc false,
          .pin .cs false, .spiXfer [c], .pin .cs true] ∧
      expansion s (.data l) =
        [.spiCfg { baud := s.cfg.spiBaud, pol := 0, pha := 0 }, .pin .cs true, .pin .dc true,
          .pin .cs false, .spiXfer l, .pin .cs true]) ∧
    (s.cfg.bus = .spi → s.cfg.hasCs = false →
      expansion s (.cmd c) =
        [.spiCfg { baud := s.cfg.spiBaud, pol := 0, pha := 0 }, .pin .dc false, .spiXfer [c]] ∧
      expansion s (.data l) =
        [.spiCfg { baud := s.cfg.spiBaud, pol := 0, pha := 0 }, .pin .dc true, .spiXfer l]) ∧
    expansion s (.dataFb p) =
      expansion s (.data ((List.range s.cfg.W).map fun x => fbByte s (p * s.cfg.W + x))) ∧
    (∀ lv, expansion s (.res lv) = [.pin .res lv]) ∧
    (∀ ms, expansion s (.wait ms) = [.wait ms]) ∧
    (∀ v, expansion s (.fillFb v) = []) ∧ (∀ i v, expansion s (.fbw i v) = []) ∧
    ∀ i, expansion s (.fbr i) = []

/-- WRITE_CMD without a bus error (rule R141): one CMD, `LIFECYCLE` unchanged whatever the byte. A panel
that listens and awaits no contrast value takes the byte as the command it decodes to, refuses it when it is
none, and takes it as the level when it does await one (rules R98, R242, R248). -/
def Obligations.WriteCmdSendsOneCommand : Prop :=
  ∀ (s : State) (c : Byte), s.accepts → s.answersOk (busLoad s.cfg [.cmd c]) →
    ∃ t, exec (.writeCmd c) s = .next t ∧ completesAs (hopWord 0x0A c) [.cmd c] s t ∧
      linesAfter .lo s t ∧ t.lifecycle = s.lifecycle ∧ t.initDone = s.initDone ∧
      (s.panelListens →
        (s.panel.cpend = true →
          t.rx = withPanel s (settled s.cfg
            { s.panel with contrast := c, cpend := false, standing := .ordinary })) ∧
        (∀ lo, s.panel.cpend = false → decode (.wire .cmd [c]) = .ok (.setLowCol lo) →
          t.rx = withPanel s (settled s.cfg
            { s.panel with col := s.panel.col.extractLsb' 4 4 ++ lo, standing := .ordinary })) ∧
        (∀ hi, s.panel.cpend = false → decode (.wire .cmd [c]) = .ok (.setHighCol hi) →
          t.rx = withPanel s (settled s.cfg
            { s.panel with col := hi ++ s.panel.col.extractLsb' 0 4, standing := .ordinary })) ∧
        (∀ p, s.panel.cpend = false → decode (.wire .cmd [c]) = .ok (.setPage p) →
          t.rx = withPanel s (settled s.cfg { s.panel with page := p, standing := .ordinary })) ∧
        (∀ f, s.panel.cpend = false → decode (.wire .cmd [c]) = .ok (.setNormInv f) →
          t.rx = withPanel s (settled s.cfg
            { s.panel with inverted := f.getLsbD 0, standing := .ordinary })) ∧
        (∀ f, s.panel.cpend = false → decode (.wire .cmd [c]) = .ok (.setDisp f) →
          t.rx = withPanel s (settled s.cfg { s.panel with lit := f.getLsbD 0, standing := .ordinary })) ∧
        (s.panel.cpend = false → c = 0x81 →
          t.rx = withPanel s (settled s.cfg { s.panel with cpend := true, standing := .ordinary })) ∧
        (s.panel.cpend = false → decode (.wire .cmd [c]) = .error .unmodelledCommand →
          t.refused = true ∧ t.panel.standing = .abandoned))

/-- WRITE_DATA without a bus error (rule R142): one DATA with the bytes of `HDATA`, none of them
checked; a block longer than `MAX_DATA` is refused. A panel that listens and awaits no contrast value stores
them at its column and the ones after it, when they lie in its memory and the column address they end at fits
8 bits (rule R240; log 11). -/
def Obligations.WriteDataSendsTheBlock : Prop :=
  ∀ s : State, s.accepts →
    (s.hdata.length ≤ s.par.maxData → s.answersOk (busLoad s.cfg [.data s.hdata]) →
      ∃ t, exec .writeData s = .next t ∧ completesAs (hopWord 0x0B 0) [.data s.hdata] s t ∧
        linesAfter .hi s t ∧ t.lifecycle = s.lifecycle ∧ t.initDone = s.initDone ∧
        (s.panelListens → s.panel.cpend = false → s.panel.page.toNat < s.par.panelPages →
          s.panel.col.toNat + s.hdata.length ≤ s.par.panelCols →
          s.panel.col.toNat + s.hdata.length < 256 →
          t.rx = withPanel s (settled s.cfg
              { s.panel with
                pram := t.panel.pram
                col := s.panel.col + BitVec.ofNat 8 s.hdata.length
                standing := if s.hdata = [] then s.panel.standing else .ordinary }) ∧
            ∀ pg col, pramByte t.panel pg col =
              if pg = s.panel.page.toNat ∧ s.panel.col.toNat ≤ col then
                s.hdata.getD (col - s.panel.col.toNat) (pramByte s.panel pg col)
              else pramByte s.panel pg col)) ∧
    (s.par.maxData < s.hdata.length → exec .writeData s = .next { s with refused := true })

/-- Every command byte of an operation reaches a panel that listens, in order, whatever it does with it
(rules R141, R181 to R185, R230, R238). -/
def Obligations.CommandBytesReachThePanel : Prop :=
  ∀ (i : Instr) (s : State) (bytes : List Byte),
    i = .poweron ∨ i = .poweroff ∨ (∃ v, i = .sleep v) ∨ (∃ v, i = .contrast v) ∨
      i = .invert 0 ∨ i = .invert 1 ∨ (∃ c, i = .writeCmd c) →
    opCalls i s = bytes.map .cmd → s.accepts → s.panelListens →
    s.answersOk (busLoad s.cfg (opCalls i s)) →
    ∃ t, exec i s = .next t ∧
      t.panel = settled s.cfg (bytes.foldl (fun r b => deliverCmd s.wires b r) s.rx).panel ∧
      t.refused = (bytes.foldl (fun r b => deliverCmd s.wires b r) s.rx).refused

/-! ## Controller operations -/

/-- POWERON, POWEROFF and SLEEP without a bus error (rules R103, R181, R182, R183): one command byte,
`LIFECYCLE`, and on a panel that listens and awaits no contrast value `P_ON` and nothing else (rule R244).
They are sent whatever `LIFECYCLE` is; any nonzero SLEEP operand is active. -/
def Obligations.DisplaySwitchesOnAndOff : Prop :=
  ∀ s : State, s.accepts → s.answersOk (busLoad s.cfg [.cmd 0xAF]) →
    (∃ t, exec .poweron s = .next t ∧ completesAs (hopWord 0x02 0) [.cmd 0xAF] s t ∧ linesAfter .lo s t ∧
      t.lifecycle = .poweredOn ∧ t.initDone = s.initDone ∧
      (s.panelListens → s.panel.cpend = false →
        t.rx = withPanel s (settled s.cfg { s.panel with lit := true, standing := .ordinary }))) ∧
    (∃ t, exec .poweroff s = .next t ∧ completesAs (hopWord 0x03 0) [.cmd 0xAE] s t ∧ linesAfter .lo s t ∧
      t.lifecycle = .poweredOff ∧ t.initDone = s.initDone ∧
      (s.panelListens → s.panel.cpend = false →
        t.rx = withPanel s (settled s.cfg { s.panel with lit := false, standing := .ordinary }))) ∧
    ∀ v : Byte, ∃ t, exec (.sleep v) s = .next t ∧
      completesAs (hopWord 0x04 v) [.cmd (if v = 0 then 0xAF else 0xAE)] s t ∧ linesAfter .lo s t ∧
      t.lifecycle = (if v = 0 then .poweredOn else .sleeping) ∧ t.initDone = s.initDone ∧
      (s.panelListens → s.panel.cpend = false →
        t.rx = withPanel s (settled s.cfg { s.panel with lit := v == 0, standing := .ordinary }))

/-- CONTRAST without a bus error (rule R184): two command calls, the level the second, for every level; on
a panel that listens and awaits no contrast value `P_CONTRAST` and nothing else (rules R241, R242). -/
def Obligations.ContrastSendsTwoCommands : Prop :=
  ∀ (s : State) (level : Byte), s.accepts → s.answersOk (busLoad s.cfg [.cmd 0x81, .cmd level]) →
    ∃ t, exec (.contrast level) s = .next t ∧
      completesAs (hopWord 0x05 level) [.cmd 0x81, .cmd level] s t ∧ linesAfter .lo s t ∧
      t.lifecycle = s.lifecycle ∧ t.initDone = s.initDone ∧
      (s.panelListens → s.panel.cpend = false →
        t.rx = withPanel s (settled s.cfg { s.panel with contrast := level, standing := .ordinary }))

/-- INVERT without a bus error (rule R185): one command byte; on a panel that listens and awaits no
contrast value `P_INV` and nothing else (rule R243); an immediate other than 0 and 1 is refused. -/
def Obligations.InvertSetsTheDisplayMode : Prop :=
  ∀ (s : State) (flag : Byte), s.accepts →
    (flag = 0 ∨ flag = 1 → s.answersOk (busLoad s.cfg [.cmd (0xA6 + flag)]) →
      ∃ t, exec (.invert flag) s = .next t ∧ completesAs (hopWord 0x06 flag) [.cmd (0xA6 + flag)] s t ∧
        linesAfter .lo s t ∧ t.lifecycle = s.lifecycle ∧ t.initDone = s.initDone ∧
        (s.panelListens → s.panel.cpend = false →
          t.rx = withPanel s (settled s.cfg
            { s.panel with inverted := flag == 1, standing := .ordinary }))) ∧
    (flag ≠ 0 → flag ≠ 1 → exec (.invert flag) s = .next { s with refused := true })

/-- RESET (rules R180, R249): with a reset line the pulse with its three waits, after which a panel that is
still modelled is in `PANEL_RESET`; without one no bus action and no change of the panel. No bus answer is
needed: nothing of it can fail. -/
def Obligations.ResetPulsesTheLine : Prop :=
  decodeHop 0x0100 = .ok .reset ∧
  (∀ imm : Byte, imm ≠ 0 → decodeHop (hopWord 0x01 imm) = .error .reservedImm) ∧
  ∀ s : State, s.accepts →
    (s.cfg.hasRes = true →
      ∃ t, exec .reset s = .next t ∧
        completesAs (hopWord 0x01 0)
          [.res true, .wait 1, .res false, .wait 20, .res true, .wait 20] s t ∧
        t.trace = s.trace ++
          [.pin .res true, .wait 1, .pin .res false, .wait 20, .pin .res true, .wait 20] ∧
        t.lifecycle = .reset ∧ t.initDone = s.initDone ∧ t.lineRes = .hi ∧ t.lineDc = s.lineDc ∧
        t.lineCs = s.lineCs ∧ t.spiMode = s.spiMode ∧ t.refused = s.refused ∧
        (s.panel.standing ≠ .abandoned → inPanelReset s.par t.panel)) ∧
    (s.cfg.hasRes = false →
      ∃ t, exec .reset s = .next t ∧ completesAs (hopWord 0x01 0) [] s t ∧ t.trace = s.trace ∧
        t.lifecycle = .reset ∧ t.initDone = s.initDone ∧ t.rx = s.rx ∧ t.wires = s.wires)

/-- SHOW without a bus error (rules R63, R186, R187, R188): for every page in increasing order the page
command, column 2 by its low and high nibble, and the page's `W` bytes; `LIFECYCLE` unchanged. -/
def Obligations.ShowSendsEveryPage : Prop :=
  ∀ s : State, s.accepts → constructionCause s.cfg = none →
    s.answersOk (busLoad s.cfg (opCalls .showPages s)) →
    ∃ t, exec .showPages s = .next t ∧
      completesAs (hopWord 0x07 0)
        ((List.range s.cfg.PAGES).flatMap fun p =>
          [.cmd (0xB0 + BitVec.ofNat 8 p), .cmd 0x02, .cmd 0x10, .dataFb p]) s t ∧
      t.tpc = 4 * s.cfg.PAGES ∧ linesAfter .hi s t ∧ t.lifecycle = s.lifecycle ∧ t.initDone = s.initDone

/-- Rule R189, with the premises that rule R189 leaves to the other rules (the panel listens and awaits no
contrast value) and those of `fits`, of which `W + 2 < 256` is the model's (log 11): what a completed SHOW
leaves in the panel. -/
def Obligations.ShowFillsThePanelMemory : Prop :=
  ∀ s : State, s.accepts → constructionCause s.cfg = none → s.panelListens → s.panel.cpend = false →
    s.fits → s.answersOk (busLoad s.cfg (opCalls .showPages s)) →
    ∃ t, exec .showPages s = .next t ∧ hstatKind t.hstat = 0 ∧
      t.rx = withPanel s (settled s.cfg
        { s.panel with
          pram := t.panel.pram
          page := BitVec.ofNat 4 (s.cfg.PAGES - 1)
          col := BitVec.ofNat 8 (s.cfg.W + 2)
          standing := .ordinary }) ∧
      (∀ p, p < s.cfg.PAGES → pageShown s t.panel p) ∧
      ∀ pg col, ¬(pg < s.cfg.PAGES ∧ 2 ≤ col ∧ col < s.cfg.W + 2) →
        pramByte t.panel pg col = pramByte s.panel pg col

/-- Rule R250 after a completed SHOW: the visible image is the framebuffer's, complemented when the panel
is inverted, dark when it is off. That a 1 bit is a lit pixel, off dark and inverted the complement is general
knowledge, and the orientation a decision (G7 of 93_implementation_defined.md, D29 of 92_eei_decisions.md).
`W + 2 < 256` in `fits` is the model's (log 11). -/
def Obligations.ShowMakesTheImageVisible : Prop :=
  ∀ s : State, s.accepts → constructionCause s.cfg = none → s.panelListens → s.panel.cpend = false →
    s.fits → s.answersOk (busLoad s.cfg (opCalls .showPages s)) →
    ∃ t, exec .showPages s = .next t ∧
      ∀ x y, x < s.cfg.W → y < s.cfg.H →
        lit t.panel x y = (s.panel.lit && (pixel s x y ^^ s.panel.inverted))

/-- INIT without a bus error, on the block's side (rules R122, R190, R304): its transport calls, the
framebuffer filled with 0, `LIFECYCLE`, `INIT_DONE`, the lines. -/
def Obligations.InitRunsTheBootSequence : Prop :=
  ∀ s : State, s.accepts → constructionCause s.cfg = none →
    s.answersOk (busLoad s.cfg (opCalls .init s)) →
    ∃ t, exec .init s = .next t ∧
      endedOk (hopWord 0x08 0)
        ((if s.cfg.hasRes then [.res true, .wait 1, .res false, .wait 20, .res true, .wait 20] else []) ++
          [.fillFb false, .cmd 0xAF] ++
          (List.range s.cfg.PAGES).flatMap fun p =>
            [.cmd (0xB0 + BitVec.ofNat 8 p), .cmd 0x02, .cmd 0x10, .dataFb p]) t ∧
      t.tpc = 4 * s.cfg.PAGES + (if s.cfg.hasRes then 8 else 2) ∧ t.hstat = 0x00000800 ∧
      sameHost s t ∧ t.hres = s.hres ∧
      t.trace = s.trace ++ wireOf (fillAll s false) (opCalls .init s) ∧
      t.answers = s.answers.drop (busLoad s.cfg (opCalls .init s)) ∧
      (∀ i, i < s.cfg.fbSize → fbByte t i = 0x00) ∧
      t.lifecycle = .poweredOn ∧ t.initDone = true ∧
      t.lineRes = (if s.cfg.hasRes then .hi else s.lineRes) ∧
      (s.cfg.bus = .i2c → t.lineDc = s.lineDc ∧ t.lineCs = s.lineCs ∧ t.spiMode = s.spiMode) ∧
      (s.cfg.bus = .spi → t.lineDc = .hi ∧ t.lineCs = (if s.cfg.hasCs then .hi else s.lineCs) ∧
        t.spiMode = { baud := s.cfg.spiBaud, pol := 0, pha := 0 })

/-- Rule R304, the panel after an INIT with a reset line: it has been reset, so nothing is asked of what it
was before but that it is still modelled. The image clause rests on rule R250's polarity, which is general
knowledge (G7 of 93_implementation_defined.md, D29). `W + 2 < 256` in `fits` is the model's (log 11). -/
def Obligations.InitWithResetLineShowsAClearImage : Prop :=
  ∀ s : State, s.accepts → constructionCause s.cfg = none → s.cfg.hasRes = true → s.wired →
    s.panel.standing ≠ .abandoned → s.fits → s.answersOk (busLoad s.cfg (opCalls .init s)) →
    ∃ t p0, exec .init s = .next t ∧ inPanelReset s.par p0 ∧ t.refused = s.refused ∧
      t.panel =
        { p0 with
          pram := t.panel.pram
          page := BitVec.ofNat 4 (s.cfg.PAGES - 1)
          col := BitVec.ofNat 8 (s.cfg.W + 2)
          lit := true
          standing := .ordinary } ∧
      (∀ p x, p < s.cfg.PAGES → x < s.cfg.W → pramByte t.panel p (x + 2) = 0x00) ∧
      (∀ pg col, ¬(pg < s.cfg.PAGES ∧ 2 ≤ col ∧ col < s.cfg.W + 2) →
        pramByte t.panel pg col = pramByte p0 pg col) ∧
      ∀ x y, x < s.cfg.W → y < s.cfg.H → lit t.panel x y = p0.inverted

/-- Rules R303 and R304, INIT without a reset line: a panel found in its reset state is left as rule R304
says; one found out of it is undefined afterwards (rule R252, U2 of 93_implementation_defined.md; how the
model tells the two apart is its choice, log 14). `W + 2 < 256` in `fits` is the model's (log 11). -/
def Obligations.InitWithoutResetLineNeedsAResetPanel : Prop :=
  ∀ s : State, s.accepts → constructionCause s.cfg = none → s.cfg.hasRes = false → s.wired →
    s.answersOk (busLoad s.cfg (opCalls .init s)) →
    ∃ t, exec .init s = .next t ∧ t.hstat = 0x00000800 ∧
      (s.panel.standing = .inReset → s.panel.cpend = false → s.hears → s.fits →
        t.rx = withPanel s (settled s.cfg
          { s.panel with
            pram := t.panel.pram
            page := BitVec.ofNat 4 (s.cfg.PAGES - 1)
            col := BitVec.ofNat 8 (s.cfg.W + 2)
            lit := true
            standing := .ordinary }) ∧
        (∀ p x, p < s.cfg.PAGES → x < s.cfg.W → pramByte t.panel p (x + 2) = 0x00) ∧
        ∀ pg col, ¬(pg < s.cfg.PAGES ∧ 2 ≤ col ∧ col < s.cfg.W + 2) →
          pramByte t.panel pg col = pramByte s.panel pg col) ∧
      (s.panel.standing ≠ .inReset →
        t.panel.standing.known = false ∧ drawnAt s.cfg (t.draws - 1) t.panel ∧ t.refused = s.refused)

/-- Rules R191 and R252: an operation of the list, run before INIT, emits the bus actions of its transport
calls and ends without error, and leaves every panel field a fresh draw, without a refusal. -/
def Obligations.OperationsBeforeInitUndefineThePanel : Prop :=
  ∀ (i : Instr) (s : State),
    i = .poweron ∨ i = .poweroff ∨ (∃ v, i = .sleep v) ∨ (∃ v, i = .contrast v) ∨ (∃ v, i = .invert v) ∨
      i = .showPages ∨ (∃ c, i = .writeCmd c) ∨ i = .writeData →
    s.accepts → s.initDone = false → constructionCause s.cfg = none → operandLegal i s = true →
    s.answersOk (busLoad s.cfg (opCalls i s)) →
    ∃ t, exec i s = .next t ∧ t.trace = s.trace ++ wireOf s (opCalls i s) ∧ hstatKind t.hstat = 0 ∧
      t.initDone = false ∧ t.refused = s.refused ∧ t.panel.standing.known = false ∧
      s.draws < t.draws ∧ drawnAt s.cfg (t.draws - 1) t.panel

/-! ## Errors -/

/-- Rules R273 and R274, one bus action that fails: `HSTAT` records cause, operation and call, `BUSY`
falls, `TPC` and `BPC` stay, nothing else of the block changes, and the panel receives the first `n` bytes of
a transfer and nothing of an `SPI_CFG`. Where the operation's bus actions leave the panel undefined, a failed
one does so too: before INIT by rules R191 and R252, in an INIT without a reset line that found the panel out
of its reset state by the model's choice (log 14). -/
def Obligations.FailedActionAborts : Prop :=
  ∀ (s : State) (call : TransportCall) (a : BusAction) (c : Cause) (n : Nat) (rest : List BusAnswer),
    s.busy = true → s.tcl[s.tpc]? = some call → (expansion s call)[s.bpc]? = some a →
    s.answers = .err c n :: rest → a.allows c = true →
    ∃ t, step s = .next t ∧ t.busy = false ∧
      t.hstat = BitVec.ofNat 16 s.tpc ++ opcOf s.cur ++ 0#4 ++
        (match c with | .nack => 0#2 | .timeout => 1#2 | .notReady => 2#2 | .other => 3#2) ++ 2#2 ∧
      t.tpc = s.tpc ∧ t.bpc = s.bpc ∧ t.cur = s.cur ∧ t.tcl = s.tcl ∧
      t.trace = s.trace ++ [a] ∧ t.answers = rest ∧ t.fb = s.fb ∧ t.hres = s.hres ∧
      t.lifecycle = s.lifecycle ∧ t.initDone = s.initDone ∧ sameHost s t ∧
      t.lineRes = s.lineRes ∧ t.lineDc = s.lineDc ∧ t.lineCs = s.lineCs ∧
      ((∀ m, a ≠ .spiCfg m) → t.spiMode = s.spiMode) ∧
      ((∃ m, a = .spiCfg m) → unsupported s = false → t.panel = s.panel ∧ t.refused = s.refused) ∧
      (∀ l, a = .i2cTxn l → unsupported s = false → t.rx = i2cTransaction s.wires (l.take n) s.rx) ∧
      (∀ l, a = .spiXfer l → unsupported s = false → t.rx = spiTransfer s.wires (l.take n) s.rx) ∧
      (unsupported s = true → t.refused = s.refused ∧ t.panel.standing.known = false ∧
        s.draws < t.draws ∧ drawnAt s.cfg (t.draws - 1) t.panel)

/-- Rule R192, an operation whose fallible bus action fails: `call` is the transport call that fails and
`a` its failing bus action, every answer before it was success. Everything up to `a` has been emitted and
nothing after it; the framebuffer is as the operation sends it; `LIFECYCLE` and `INIT_DONE` have only the
updates of completed calls. -/
def Obligations.FailedOperationStopsAtTheFailingAction : Prop :=
  ∀ (i : Instr) (s : State) (before after : List TransportCall) (call : TransportCall)
    (done more : List BusAction) (a : BusAction) (c : Cause) (n : Nat) (rest : List BusAnswer),
    isHostOp i = true → s.accepts → operandLegal i s = true →
    opCalls i s = before ++ call :: after → expansion (sentFrom i s) call = done ++ a :: more →
    s.answers = List.replicate (busLoad s.cfg before + done.countP BusAction.fallible) .ok ++
      .err c n :: rest →
    a.allows c = true →
    ∃ t, exec i s = .next t ∧ t.busy = false ∧
      t.hstat = mkHstat 2 (causeCode c) (opcodeOf i) before.length ∧
      t.tpc = before.length ∧ t.bpc = done.length ∧ t.answers = rest ∧ sameHost s t ∧
      t.trace = s.trace ++ wireOf (sentFrom i s) before ++ done ++ [a] ∧
      t.fb = (sentFrom i s).fb ∧ t.hres = s.hres ∧ t.initDone = s.initDone ∧
      (i ≠ .init → t.lifecycle = s.lifecycle) ∧
      (i = .init → t.lifecycle =
        if before.length = (if s.cfg.hasRes then 7 else 1) then .reset else .poweredOn) ∧
      t.lineRes = drivenBy (wireOf (sentFrom i s) before ++ done) .res s.lineRes ∧
      t.lineDc = drivenBy (wireOf (sentFrom i s) before ++ done) .dc s.lineDc ∧
      t.lineCs = drivenBy (wireOf (sentFrom i s) before ++ done) .cs s.lineCs

/-- Rules R156 and R317, for a WRITE_CMD on SPI with a CS line: a failed `SPI_CFG` has driven no line; a
failed transfer leaves CS low, and the next WRITE_CMD that succeeds drives it high again. -/
def Obligations.FailedTransferLeavesCsLow : Prop :=
  ∀ (s : State) (c : Byte) (cause : Cause) (n : Nat) (rest : List BusAnswer),
    s.accepts → s.cfg.bus = .spi → s.cfg.hasCs = true →
    ((BusAction.spiCfg (blockMode s.cfg)).allows cause = true → s.answers = .err cause n :: rest →
      ∃ t, exec (.writeCmd c) s = .next t ∧ hstatKind t.hstat = 2 ∧
        t.lineRes = s.lineRes ∧ t.lineDc = s.lineDc ∧ t.lineCs = s.lineCs) ∧
    ((BusAction.spiXfer [c]).allows cause = true → s.answers = .ok :: .err cause n :: rest →
      ∃ t, exec (.writeCmd c) s = .next t ∧ hstatKind t.hstat = 2 ∧ t.lineDc = .lo ∧ t.lineCs = .lo ∧
        ∀ d, t.answersOk 2 → ∃ u, exec (.writeCmd d) t = .next u ∧ hstatKind u.hstat = 0 ∧ u.lineCs = .hi)

/-- Rules R184 and R318, on both transports: a CONTRAST whose second command fails before its byte arrives (on
I2C within the address and control byte, on SPI at its `SPI_CFG` or before the transfer's byte) leaves the panel
awaiting a contrast value, and the next command byte, whatever it is, becomes the level. -/
def Obligations.SplitContrastTakesTheNextCommand : Prop :=
  ∀ (s : State) (level c : Byte) (j : Nat) (cause : Cause) (n : Nat) (rest : List BusAnswer),
    s.accepts → s.panelListens → s.panel.cpend = false →
    (s.cfg.bus = .i2c ∧ j = 1 ∧ n ≤ 2) ∨
      (s.cfg.bus = .spi ∧ j = 2 ∧ (cause = .notReady ∨ cause = .other)) ∨
      (s.cfg.bus = .spi ∧ j = 3 ∧ n = 0 ∧ cause ≠ .nack) →
    s.answers =
      List.replicate j .ok ++ .err cause n :: (List.replicate (busLoad s.cfg [.cmd c]) .ok ++ rest) →
    ∃ t, exec (.contrast level) s = .next t ∧
      t.hstat = mkHstat 2 (causeCode cause) 0x05 1 ∧ t.panel.cpend = true ∧
      t.panel.contrast = s.panel.contrast ∧ t.refused = s.refused ∧
      ∃ u, exec (.writeCmd c) t = .next u ∧ hstatKind u.hstat = 0 ∧ u.refused = s.refused ∧
        u.panel = settled s.cfg { s.panel with contrast := c, cpend := false, standing := .ordinary }

/-- Rule R316, on both transports: after a SHOW whose bus action failed after `j` that succeeded, at
transport call `k` and so in page `m`, the pages before it hold the new bytes, the pages after it are as they
were, and so is every place outside the image. The cause `c` is one that the failing action can have (rule
R66). `W + 2 < 256` in `fits` is the model's (log 11). -/
def Obligations.FailedShowLeavesLaterPagesStale : Prop :=
  ∀ (s : State) (j k m : Nat) (c : Cause) (n : Nat) (rest : List BusAnswer),
    s.accepts → constructionCause s.cfg = none → s.panelListens → s.panel.cpend = false → s.fits →
    k = (if s.cfg.bus = .i2c then j else j / 2) → k < 4 * s.cfg.PAGES → m = k / 4 →
    s.cfg.bus = .i2c ∨ c = .notReady ∨ c = .other ∨ (c = .timeout ∧ j % 2 = 1) →
    s.answers = List.replicate j .ok ++ .err c n :: rest →
    ∃ t, exec .showPages s = .next t ∧ t.hstat = mkHstat 2 (causeCode c) 0x07 k ∧ t.refused = s.refused ∧
      t.fb = s.fb ∧ (∀ p, p < m → pageShown s t.panel p) ∧
      ∀ pg col, m < pg ∨ col < 2 ∨ s.cfg.W + 2 ≤ col →
        pramByte t.panel pg col = pramByte s.panel pg col

/-! ## The panel's units -/

/-- Rules R243 to R247: the one-byte commands to a panel that hears them and awaits no contrast value. Each
changes its own field and nothing else. That such a unit is
delivered past the frame handler, which stays as it is, and past the SPI receiver is the model's choice (log
17). -/
def Obligations.PanelCommandsSetTheirField : Prop :=
  ∀ s : State, s.hears → s.panel.cpend = false →
    (∀ lo, exec (.setLowCol lo) s = .next { s with
      panel := { s.panel with col := s.panel.col.extractLsb' 4 4 ++ lo, standing := .ordinary } }) ∧
    (∀ hi, exec (.setHighCol hi) s = .next { s with
      panel := { s.panel with col := hi ++ s.panel.col.extractLsb' 0 4, standing := .ordinary } }) ∧
    (∀ p, exec (.setPage p) s = .next { s with
      panel := { s.panel with page := p, standing := .ordinary } }) ∧
    (∀ f, exec (.setNormInv f) s = .next { s with
      panel := { s.panel with inverted := f == 1, standing := .ordinary } }) ∧
    ∀ f, exec (.setDisp f) s = .next { s with
      panel := { s.panel with lit := f == 1, standing := .ordinary } }

/-- Rules R241 and R242: the two bytes of SET_CONTRAST, together and one at a time; after the first, any
octet is the level. That such a unit is delivered past the frame handler, which stays as it is, and past the
SPI receiver is the model's choice (log 17). -/
def Obligations.SetContrastTakesTwoBytes : Prop :=
  ∀ (s : State) (rest : List Input), s.hears →
    (∀ level, s.panel.cpend = false → exec (.setContrast level) s = .next { s with
      panel := { s.panel with contrast := level, standing := .ordinary } }) ∧
    (s.panel.cpend = false → s.busy = false → s.inputs = .wire .cmd [0x81] :: rest →
      step s = .next { s with
        inputs := rest
        panel := { s.panel with cpend := true, standing := .ordinary } }) ∧
    ∀ b, s.panel.cpend = true → s.busy = false → s.inputs = .wire .cmd [b] :: rest →
      step s = .next { s with
        inputs := rest
        panel := { s.panel with contrast := b, cpend := false, standing := .ordinary } }

/-- Rule R98, first priority: while a contrast value is awaited every command is taken as that value, and
of SET_CONTRAST's two bytes only the first. That such a unit is delivered past the frame handler, which stays
as it is, and past the SPI receiver is the model's choice (log 17). -/
def Obligations.AwaitedContrastTakesAnyCommand : Prop :=
  ∀ s : State, s.hears → s.panel.cpend = true →
    (∀ (i : Instr) (b : Byte),
      (∃ lo, i = .setLowCol lo) ∨ (∃ hi, i = .setHighCol hi) ∨ (∃ p, i = .setPage p) ∨
        (∃ f, i = .setNormInv f) ∨ (∃ f, i = .setDisp f) →
      encode i = .wire .cmd [b] →
      exec i s = .next { s with
        panel := { s.panel with contrast := b, cpend := false, standing := .ordinary } }) ∧
    ∀ level, exec (.setContrast level) s =
      .next (s.setRx (deliverCmd s.wires level (withPanel s
        { s.panel with contrast := 0x81, cpend := false, standing := .ordinary })))

/-- Rules R238 and R240: a data byte is stored at the panel's page and column, the column advances by one
(past 0xFF it is a free value, log 11), every other display-memory byte stays; outside the display memory or
while a contrast value is awaited the byte is refused. That such a unit is delivered past the frame handler,
which stays as it is, and past the SPI receiver is the model's choice (log 17). -/
def Obligations.DataByteIsStoredOrRefused : Prop :=
  ∀ (s : State) (d : Byte), s.hears →
    (s.panel.cpend = false → s.panel.page.toNat < s.par.panelPages →
      s.panel.col.toNat < s.par.panelCols →
      ∃ t, exec (.dataByte d) s = .next t ∧
        t = { s with draws := t.draws, panel := { s.panel with
          pram := t.panel.pram, col := t.panel.col, standing := .ordinary } } ∧
        (s.panel.col ≠ 0xFF → t.panel.col = s.panel.col + 1 ∧ t.draws = s.draws) ∧
        (s.panel.col = 0xFF → t.panel.col = Config.anyNextCol s.draws ∧ t.draws = s.draws + 1) ∧
        ∀ pg col, pramByte t.panel pg col =
          if pg = s.panel.page.toNat ∧ col = s.panel.col.toNat then d else pramByte s.panel pg col) ∧
    (s.panel.cpend = true ∨ s.par.panelPages ≤ s.panel.page.toNat ∨
        s.par.panelCols ≤ s.panel.col.toNat →
      ∃ t, exec (.dataByte d) s = .next t ∧ t.refused = true ∧ t.panel.standing = .abandoned)

/-- Rules R99, R232 and R235: the address byte of a transaction. It puts the frame handler in `CTRL` when it
is the panel's, else the panel drops out of the transaction (log 16); no other field changes, also of a panel
whose fields are undefined (log 13). On SPI there is no frame handler (rule R47; log 16). -/
def Obligations.AddressByteSelectsThePanel : Prop :=
  ∀ (s : State) (a : BitVec 7),
    (s.cfg.bus = .i2c → s.hears → a = s.par.panelAddr →
      exec (.i2cAddress a) s = .next { s with panel := { s.panel with fh := .ctrl } }) ∧
    (s.cfg.bus = .i2c → s.panel.standing ≠ .abandoned → a ≠ s.par.panelAddr →
      exec (.i2cAddress a) s = .next { s with panel := { s.panel with fh := .dropped } }) ∧
    (s.cfg.bus = .spi → exec (.i2cAddress a) s = .next s)

/-- Rules R100 and R233: the four control bytes, where the frame handler awaits a control byte. Outside a
transaction for the panel they do nothing (rule R235; log 16, log 13). -/
def Obligations.ControlByteSetsTheFrame : Prop :=
  (∀ s : State, s.hears → s.panel.fh = .ctrl →
    exec .ctlOneCmd s = .next { s with panel := { s.panel with fh := .one .cmd } } ∧
    exec .ctlDataStream s = .next { s with panel := { s.panel with fh := .stream .data } } ∧
    exec .ctlCmdStream s = .next { s with panel := { s.panel with fh := .stream .cmd } } ∧
    exec .ctlOneData s = .next { s with panel := { s.panel with fh := .one .data } }) ∧
  ∀ s : State, s.panel.standing ≠ .abandoned → s.panel.fh = .dropped →
    exec .ctlOneCmd s = .next s ∧ exec .ctlDataStream s = .next s ∧
    exec .ctlCmdStream s = .next s ∧ exec .ctlOneData s = .next s

/-- What the panel refuses beside data (rules R97, R100, R233, R248, R249): a command byte that matches no
row of rule R95, while no contrast value is awaited; a control byte with a bit of `[5:0]` set; and during a
panel reset, that is while the RES line is low or before the 20 ms after its rising edge have passed, any byte
it receives: a command, a data byte, its own address byte, a byte of a transaction it is in. That a unit on its
own reaches the panel whatever the SPI lines are is the model's choice (log 17). -/
def Obligations.BytesThePanelRefuses : Prop :=
  (∀ b : Byte, decodeCommand b = none ↔
    (0x20 ≤ b ∧ b ≤ 0x80) ∨ (0x82 ≤ b ∧ b ≤ 0xA5) ∨ (0xA8 ≤ b ∧ b ≤ 0xAD) ∨ 0xC0 ≤ b) ∧
  (∀ (s : State) (b : Byte) (rest : List Input), s.busy = false → s.hears →
    (s.panel.cpend = false → decodeCommand b = none → s.inputs = .wire .cmd [b] :: rest →
      ∃ t, step s = .next t ∧ t.refused = true ∧ t.panel.standing = .abandoned) ∧
    (s.panel.fh = .ctrl → b.extractLsb' 0 6 ≠ 0 → s.inputs = .wire .ctl [b] :: rest →
      ∃ t, step s = .next t ∧ t.refused = true ∧ t.panel.standing = .abandoned)) ∧
  ∀ (s : State) (b : Byte), s.panel.standing.known = true → s.lineRes = .lo ∨ s.panel.phase ≠ .idle →
    (∀ k, (deliver s.wires k b s.rx).refused = true ∧
      (deliver s.wires k b s.rx).panel.standing = .abandoned) ∧
    (s.panel.fh ≠ .dropped → (i2cByte s.wires s.rx b).refused = true ∧
      (i2cByte s.wires s.rx b).panel.standing = .abandoned) ∧
    ∀ i : Instr, isHostOp i = false →
      (∀ a, i = .i2cAddress a → s.cfg.bus = .i2c ∧ a = s.par.panelAddr) →
      (i = .ctlOneCmd ∨ i = .ctlDataStream ∨ i = .ctlCmdStream ∨ i = .ctlOneData →
        s.panel.fh ≠ .dropped) →
      ∃ t, exec i s = .next t ∧ t.refused = true ∧ t.panel.standing = .abandoned

/-- Rules R231, R233 and R234: how a transaction addressed to a panel that listens splits into commands and
data: any number of frames with Co = 1, each one byte of its kind, then nothing or a frame with Co = 0, whose
payload is the rest. `last` is the state after the Co = 1 frames. -/
def Obligations.FramesDeliverTheirPayload : Prop :=
  ∀ (w : Wires) (r : Rx) (a : Byte) (frames : List (Kind × Byte)) (l : List Byte),
    w.cfg.bus = .i2c → selectsPanel w a = true → r.panel.standing.known = true →
    duringReset w r = false →
    (frames.foldl (fun r f => deliver w f.1 f.2 r) r).panel.standing.known = true →
    let head := frames.flatMap fun f => [match f.1 with | .cmd => 0x80 | .data => 0xC0, f.2]
    let last := frames.foldl (fun r f => deliver w f.1 f.2 r) r
    i2cTransaction w (a :: head) r = i2cStop last ∧
    i2cTransaction w (a :: head ++ [0x80]) r = i2cStop last ∧
    i2cTransaction w (a :: head ++ 0x00 :: l) r =
      i2cStop (l.foldl (fun r b => deliver w .cmd b r) last) ∧
    i2cTransaction w (a :: head ++ 0x40 :: l) r =
      i2cStop (l.foldl (fun r b => deliver w .data b r) last)

/-- Rule R235: a transaction whose address byte does not select the panel, or asks to read, delivers
nothing and changes no panel field but the frame handler's, which is dropped (log 16). This holds also of a
panel whose fields are undefined (log 13). -/
def Obligations.OtherAddressDeliversNothing : Prop :=
  ∀ (w : Wires) (r : Rx) (a : Byte) (l : List Byte),
    w.cfg.bus = .i2c → a.extractLsb' 1 7 ≠ w.par.panelAddr ∨ a.getLsbD 0 = true →
    r.panel.standing ≠ .abandoned →
    i2cTransaction w (a :: l) r = { r with panel := { r.panel with fh := .dropped } }

/-- Rules R236 and R237: which bytes of an SPI transfer the panel takes, and as what. With D/C not driven
a byte is refused. Above the panel's rate, or with the bus in another mode than the block's (the model's
choice, log 22), each received byte is a free value. -/
def Obligations.SpiReceiverReadsTheLines : Prop :=
  ∀ (w : Wires) (r : Rx) (b : Byte),
    (w.cfg.hasCs = true → w.lineCs ≠ .lo → spiByte w r b = r) ∧
    (w.cfg.hasCs = false ∨ w.lineCs = .lo →
      (w.lineDc = .x → r.panel.standing.known = true →
        (spiByte w r b).refused = true ∧ (spiByte w r b).panel.standing = .abandoned) ∧
      (w.cfg.spiBaud ≤ w.par.panelMaxBaud →
        w.spiMode = { baud := w.cfg.spiBaud, pol := 0, pha := 0 } →
        (w.lineDc = .lo → spiByte w r b = deliver w .cmd b r) ∧
        (w.lineDc = .hi → spiByte w r b = deliver w .data b r)) ∧
      (w.par.panelMaxBaud < w.cfg.spiBaud ∨
          w.spiMode ≠ { baud := w.cfg.spiBaud, pol := 0, pha := 0 } →
        (w.lineDc = .lo →
          spiByte w r b = deliver w .cmd (Config.anyRxByte r.draws) { r with draws := r.draws + 1 }) ∧
        (w.lineDc = .hi →
          spiByte w r b = deliver w .data (Config.anyRxByte r.draws) { r with draws := r.draws + 1 })))

/-- Rules R252 and R280: a panel whose fields are undefined or no longer modelled takes every unit it receives
without a refusal and stays so, its fields drawn afresh (log 12, log 13). An undefined panel does not receive
the address of another device nor a control byte outside its own transaction (rule R235; log 16). On SPI an
address byte is no unit (log 16), and a unit on its own reaches the panel whatever the lines are (log 17). -/
def Obligations.LostPanelStaysLost : Prop :=
  ∀ (i : Instr) (s : State), isHostOp i = false → s.panel.standing.known = false →
    (∀ a, i = .i2cAddress a →
      s.cfg.bus = .i2c ∧ (a = s.par.panelAddr ∨ s.panel.standing = .abandoned)) →
    (i = .ctlOneCmd ∨ i = .ctlDataStream ∨ i = .ctlCmdStream ∨ i = .ctlOneData →
      s.panel.fh ≠ .dropped ∨ s.panel.standing = .abandoned) →
    ∃ t, exec i s = .next t ∧ t.refused = s.refused ∧ t.panel.standing = s.panel.standing ∧
      s.draws < t.draws ∧ drawnAt s.cfg (t.draws - 1) t.panel

/-- Rule R249: the two levels and the two waits that reset a panel, as the panel sees them, with any waits
of at least 20 ms; a panel awaiting a contrast value awaits it no more. A pulse held for less leaves the panel
undefined: the model's choice (log 15). A panel no longer modelled stays so (rule R280; log 12). -/
def Obligations.ResPulseResetsThePanel : Prop :=
  ∀ (w : Wires) (r : Rx) (low high : Nat), r.panel.phase = .idle → 20 ≤ high →
    (r.panel.standing = .abandoned →
      (onWait w high (onResPin w true (onWait w low (onResPin w false r)))).panel.standing = .abandoned) ∧
    (r.panel.standing ≠ .abandoned → 20 ≤ low →
      inPanelReset w.par
        (onWait w high (onResPin w true (onWait w low (onResPin w false r)))).panel ∧
      (onWait w high (onResPin w true (onWait w low (onResPin w false r)))).refused = r.refused) ∧
    (r.panel.standing ≠ .abandoned → low < 20 →
      (onWait w high (onResPin w true (onWait w low (onResPin w false r)))).panel.standing = .undefined)

/-! ## The machine as a whole -/

/-- The invariant holds in the state the row starts from. -/
def Obligations.InvariantHoldsAtReset : Prop := Inv State.reset

/-- The invariant holds after every construction whose `PANEL_RESET` lists display-memory bytes in
canonical form and inside the display memory. -/
def Obligations.InvariantHoldsAfterConstruction : Prop :=
  ∀ (c : Cfg) (p : OpenParams) (u : PowerUp), Memory.wf p.panelReset.pram = true →
    pramInside p p.panelReset.pram → Inv (construct c p u)

/-- Every step keeps the invariant: the framebuffer and the display memory stay in canonical form and in
their bounds (rules R35, R40, R62), `HSTAT` stays legal (rule R27), only lines that exist are driven (rule
R33), a dead block stays quiet (rule R32). -/
def Obligations.InvariantIsKeptByEveryStep : Prop :=
  ∀ s t : State, Inv s → step s = .next t → Inv t

/-- Rule R28: no step changes the configuration or the open parameters. -/
def Obligations.ConfigurationNeverChanges : Prop :=
  ∀ s t : State, step s = .next t → t.cfg = s.cfg ∧ t.par = s.par

/-- Rules R30, R31 and R32: `INIT_DONE`, `REFUSED` and `DEAD` are never cleared, `DEAD` is never set after
construction, and `INIT_DONE` is set by an INIT that completed without error and by nothing else. -/
def Obligations.LatchesAreNeverCleared : Prop :=
  ∀ s t : State, step s = .next t →
    (s.initDone = true → t.initDone = true) ∧ (s.refused = true → t.refused = true) ∧
    t.dead = s.dead ∧
    (s.initDone = false → t.initDone = true → t.hstat = 0x00000800 ∧ t.busy = false)

/-- Rules R33, R66 and R70: the wire trace only grows, and the lines are where its new bus actions put
them: only a `PIN` writes a line, and it keeps its level until the next one. -/
def Obligations.LinesFollowTheWireTrace : Prop :=
  ∀ s t : State, step s = .next t →
    ∃ acts, t.trace = s.trace ++ acts ∧ t.lineRes = drivenBy acts .res s.lineRes ∧
      t.lineDc = drivenBy acts .dc s.lineDc ∧ t.lineCs = drivenBy acts .cs s.lineCs

/-- Rule R155: with a CS line, every transport call that sends something leaves CS high when it completes;
so does an operation with such a call that ends without error, wherever it found the line. No instruction that
ends without error leaves CS low unless it found it low, so between operations CS is low only where one has
failed. -/
def Obligations.CsIsHighAfterCompletedCalls : Prop :=
  (∀ (s t : State) (call : TransportCall), s.busy = true → s.cfg.bus = .spi → s.cfg.hasCs = true →
    s.tcl[s.tpc]? = some call → callLoad s.cfg call ≠ 0 → s.bpc < (expansion s call).length →
    step s = .next t → t.tpc = s.tpc + 1 → t.lineCs = .hi) ∧
  ∀ (i : Instr) (s t : State), exec i s = .next t → hstatKind t.hstat = 0 →
    (s.lineCs ≠ .lo → t.lineCs ≠ .lo) ∧
    (isHostOp i = true → s.accepts → operandLegal i s = true → s.cfg.bus = .spi → s.cfg.hasCs = true →
      busLoad s.cfg (opCalls i s) ≠ 0 → t.lineCs = .hi)

/-- Rules R120 and R276: an operation comes to its end whatever the bus answers, and the block is idle
after it. -/
def Obligations.EveryOperationEnds : Prop :=
  ∀ (i : Instr) (s : State), s.busy = false → ∃ t, exec i s = .next t ∧ t.busy = false

/-- Rule R310 and U8 of 93_implementation_defined.md: a submit while `BUSY = 1` has no step. In `exec` it
is the fault that says so; `step` goes on with the operation in progress and takes no input (log 21). -/
def Obligations.NoSubmitWhileBusy : Prop :=
  ∀ (i : Instr) (s : State), isHostOp i = true → s.busy = true →
    exec i s = .fault .submitWhileBusy ∧ ∃ t, step s = .next t ∧ t.inputs = s.inputs

/-- Rules R94, R124, R142 and R280: an operation whose operand is outside its legal set is refused, with no
effect but on `REFUSED`; one whose operand is legal records its own opcode in `HSTAT`. -/
def Obligations.IllegalOperandIsRefused : Prop :=
  ∀ (i : Instr) (s : State), isHostOp i = true → s.accepts →
    (operandLegal i s = false → exec i s = .next { s with refused := true }) ∧
    (operandLegal i s = true → ∃ t, exec i s = .next t ∧ hstatOp t.hstat = opcodeOf i ∧
      (hstatKind t.hstat = 0 ∨ hstatKind t.hstat = 2))

/-- The frame of every instruction (rules R21 to R24, R28 to R30, R35): no instruction writes the host's
operand registers, the configuration, `DEAD` or the inputs; only FB_READ writes `HRES`, only FILL, FB_WRITE
and INIT write the framebuffer, only INIT sets `INIT_DONE`, only the five operations of rule R29 write
`LIFECYCLE`; a unit on the panel's wire changes nothing of the block but `REFUSED`, and no reset in progress. -/
def Obligations.InstructionsKeepWhatTheyDoNotWrite : Prop :=
  ∀ (i : Instr) (s t : State), exec i s = .next t →
    sameHost s t ∧
    (i ≠ .fbRead → t.hres = s.hres) ∧
    (i ≠ .init → (∀ v, i ≠ .fill v) → (∀ v, i ≠ .fbWrite v) → ∀ k, fbByte t k = fbByte s k) ∧
    (i ≠ .init → t.initDone = s.initDone) ∧
    (i ≠ .init → i ≠ .reset → i ≠ .poweron → i ≠ .poweroff → (∀ v, i ≠ .sleep v) →
      t.lifecycle = s.lifecycle) ∧
    (isHostOp i = false →
      t = { s with panel := t.panel, refused := t.refused, draws := t.draws } ∧
        t.panel.phase = s.panel.phase)

/-- Rules R48 and R144: the block cannot read the panel. From two states that differ only on the panel's
side, and with bus answers listed for all it does, an operation gives the same on everything the host can
read: the wire trace, `HSTAT`, `HRES`, `FB`, `LIFECYCLE`, `INIT_DONE`, `BUSY`, and the lines. -/
def Obligations.TheBlockCannotReadThePanel : Prop :=
  ∀ (i : Instr) (s t t' : State) (r : Rx), isHostOp i = true →
    busLoad s.cfg (opCalls i s) ≤ s.answers.length →
    exec i s = .next t → exec i (s.setRx r) = .next t' →
    t'.trace = t.trace ∧ t'.hstat = t.hstat ∧ t'.hres = t.hres ∧ t'.fb = t.fb ∧
      t'.lifecycle = t.lifecycle ∧ t'.initDone = t.initDone ∧ t'.busy = t.busy ∧
      t'.lineRes = t.lineRes ∧ t'.lineDc = t.lineDc ∧ t'.lineCs = t.lineCs ∧ t'.answers = t.answers
end

