-- ==== Sys2Proof/Laws/State.lean ====
section
/-! SUPPORT. The fields of a state after each named update, one lemma per field, so that no later proof
unfolds a record update. -/

namespace Sys2Proof.Machine

/-! ## setRx -/

@[simp] theorem setRx_hop (s : State) (r : Rx) : (s.setRx r).hop = s.hop := rfl
@[simp] theorem setRx_hopWritten (s : State) (r : Rx) : (s.setRx r).hopWritten = s.hopWritten := rfl
@[simp] theorem setRx_haddr (s : State) (r : Rx) : (s.setRx r).haddr = s.haddr := rfl
@[simp] theorem setRx_hdata (s : State) (r : Rx) : (s.setRx r).hdata = s.hdata := rfl
@[simp] theorem setRx_hres (s : State) (r : Rx) : (s.setRx r).hres = s.hres := rfl
@[simp] theorem setRx_busy (s : State) (r : Rx) : (s.setRx r).busy = s.busy := rfl
@[simp] theorem setRx_cur (s : State) (r : Rx) : (s.setRx r).cur = s.cur := rfl
@[simp] theorem setRx_tcl (s : State) (r : Rx) : (s.setRx r).tcl = s.tcl := rfl
@[simp] theorem setRx_tpc (s : State) (r : Rx) : (s.setRx r).tpc = s.tpc := rfl
@[simp] theorem setRx_bpc (s : State) (r : Rx) : (s.setRx r).bpc = s.bpc := rfl
@[simp] theorem setRx_hstat (s : State) (r : Rx) : (s.setRx r).hstat = s.hstat := rfl
@[simp] theorem setRx_cfg (s : State) (r : Rx) : (s.setRx r).cfg = s.cfg := rfl
@[simp] theorem setRx_par (s : State) (r : Rx) : (s.setRx r).par = s.par := rfl
@[simp] theorem setRx_lifecycle (s : State) (r : Rx) : (s.setRx r).lifecycle = s.lifecycle := rfl
@[simp] theorem setRx_initDone (s : State) (r : Rx) : (s.setRx r).initDone = s.initDone := rfl
@[simp] theorem setRx_refused (s : State) (r : Rx) : (s.setRx r).refused = r.refused := rfl
@[simp] theorem setRx_dead (s : State) (r : Rx) : (s.setRx r).dead = s.dead := rfl
@[simp] theorem setRx_lineRes (s : State) (r : Rx) : (s.setRx r).lineRes = s.lineRes := rfl
@[simp] theorem setRx_lineDc (s : State) (r : Rx) : (s.setRx r).lineDc = s.lineDc := rfl
@[simp] theorem setRx_lineCs (s : State) (r : Rx) : (s.setRx r).lineCs = s.lineCs := rfl
@[simp] theorem setRx_spiMode (s : State) (r : Rx) : (s.setRx r).spiMode = s.spiMode := rfl
@[simp] theorem setRx_fb (s : State) (r : Rx) : (s.setRx r).fb = s.fb := rfl
@[simp] theorem setRx_panel (s : State) (r : Rx) : (s.setRx r).panel = r.panel := rfl
@[simp] theorem setRx_trace (s : State) (r : Rx) : (s.setRx r).trace = s.trace := rfl
@[simp] theorem setRx_answers (s : State) (r : Rx) : (s.setRx r).answers = s.answers := rfl
@[simp] theorem setRx_inputs (s : State) (r : Rx) : (s.setRx r).inputs = s.inputs := rfl
@[simp] theorem setRx_draws (s : State) (r : Rx) : (s.setRx r).draws = r.draws := rfl

@[simp] theorem setRx_rx (s : State) (r : Rx) : (s.setRx r).rx = r := rfl
@[simp] theorem setRx_wires (s : State) (r : Rx) : (s.setRx r).wires = s.wires := rfl
@[simp] theorem setRx_self (s : State) : s.setRx s.rx = s := rfl
@[simp] theorem setRx_setRx (s : State) (r r' : Rx) : (s.setRx r).setRx r' = s.setRx r' := rfl
@[simp] theorem rx_panel (s : State) : s.rx.panel = s.panel := rfl
@[simp] theorem rx_refused (s : State) : s.rx.refused = s.refused := rfl
@[simp] theorem rx_draws (s : State) : s.rx.draws = s.draws := rfl
@[simp] theorem wires_cfg (s : State) : s.wires.cfg = s.cfg := rfl
@[simp] theorem wires_par (s : State) : s.wires.par = s.par := rfl
@[simp] theorem wires_lineRes (s : State) : s.wires.lineRes = s.lineRes := rfl
@[simp] theorem wires_lineDc (s : State) : s.wires.lineDc = s.lineDc := rfl
@[simp] theorem wires_lineCs (s : State) : s.wires.lineCs = s.lineCs := rfl
@[simp] theorem wires_spiMode (s : State) : s.wires.spiMode = s.spiMode := rfl

/-! ## onPanel -/

@[simp] theorem onPanel_panel (r : Rx) (f : Panel → Panel) : (r.onPanel f).panel = f r.panel := rfl
@[simp] theorem onPanel_refused (r : Rx) (f : Panel → Panel) : (r.onPanel f).refused = r.refused := rfl
@[simp] theorem onPanel_draws (r : Rx) (f : Panel → Panel) : (r.onPanel f).draws = r.draws := rfl

/-! ## emit -/

@[simp] theorem emit_hop (a : BusAction) (s : State) : (emit a s).hop = s.hop := rfl
@[simp] theorem emit_hopWritten (a : BusAction) (s : State) : (emit a s).hopWritten = s.hopWritten := rfl
@[simp] theorem emit_haddr (a : BusAction) (s : State) : (emit a s).haddr = s.haddr := rfl
@[simp] theorem emit_hdata (a : BusAction) (s : State) : (emit a s).hdata = s.hdata := rfl
@[simp] theorem emit_hres (a : BusAction) (s : State) : (emit a s).hres = s.hres := rfl
@[simp] theorem emit_busy (a : BusAction) (s : State) : (emit a s).busy = s.busy := rfl
@[simp] theorem emit_cur (a : BusAction) (s : State) : (emit a s).cur = s.cur := rfl
@[simp] theorem emit_tcl (a : BusAction) (s : State) : (emit a s).tcl = s.tcl := rfl
@[simp] theorem emit_tpc (a : BusAction) (s : State) : (emit a s).tpc = s.tpc := rfl
@[simp] theorem emit_bpc (a : BusAction) (s : State) : (emit a s).bpc = s.bpc := rfl
@[simp] theorem emit_hstat (a : BusAction) (s : State) : (emit a s).hstat = s.hstat := rfl
@[simp] theorem emit_cfg (a : BusAction) (s : State) : (emit a s).cfg = s.cfg := rfl
@[simp] theorem emit_par (a : BusAction) (s : State) : (emit a s).par = s.par := rfl
@[simp] theorem emit_lifecycle (a : BusAction) (s : State) : (emit a s).lifecycle = s.lifecycle := rfl
@[simp] theorem emit_initDone (a : BusAction) (s : State) : (emit a s).initDone = s.initDone := rfl
@[simp] theorem emit_refused (a : BusAction) (s : State) : (emit a s).refused = s.refused := rfl
@[simp] theorem emit_dead (a : BusAction) (s : State) : (emit a s).dead = s.dead := rfl
@[simp] theorem emit_lineRes (a : BusAction) (s : State) : (emit a s).lineRes = s.lineRes := rfl
@[simp] theorem emit_lineDc (a : BusAction) (s : State) : (emit a s).lineDc = s.lineDc := rfl
@[simp] theorem emit_lineCs (a : BusAction) (s : State) : (emit a s).lineCs = s.lineCs := rfl
@[simp] theorem emit_spiMode (a : BusAction) (s : State) : (emit a s).spiMode = s.spiMode := rfl
@[simp] theorem emit_fb (a : BusAction) (s : State) : (emit a s).fb = s.fb := rfl
@[simp] theorem emit_panel (a : BusAction) (s : State) : (emit a s).panel = s.panel := rfl
@[simp] theorem emit_trace (a : BusAction) (s : State) : (emit a s).trace = s.trace ++ [a] := rfl
@[simp] theorem emit_answers (a : BusAction) (s : State) : (emit a s).answers = s.answers := rfl
@[simp] theorem emit_inputs (a : BusAction) (s : State) : (emit a s).inputs = s.inputs := rfl
@[simp] theorem emit_draws (a : BusAction) (s : State) : (emit a s).draws = s.draws := rfl

/-! ## refuse -/

@[simp] theorem refuse_hop (s : State) : (refuse s).hop = s.hop := rfl
@[simp] theorem refuse_hopWritten (s : State) : (refuse s).hopWritten = s.hopWritten := rfl
@[simp] theorem refuse_haddr (s : State) : (refuse s).haddr = s.haddr := rfl
@[simp] theorem refuse_hdata (s : State) : (refuse s).hdata = s.hdata := rfl
@[simp] theorem refuse_hres (s : State) : (refuse s).hres = s.hres := rfl
@[simp] theorem refuse_busy (s : State) : (refuse s).busy = s.busy := rfl
@[simp] theorem refuse_cur (s : State) : (refuse s).cur = s.cur := rfl
@[simp] theorem refuse_tcl (s : State) : (refuse s).tcl = s.tcl := rfl
@[simp] theorem refuse_tpc (s : State) : (refuse s).tpc = s.tpc := rfl
@[simp] theorem refuse_bpc (s : State) : (refuse s).bpc = s.bpc := rfl
@[simp] theorem refuse_hstat (s : State) : (refuse s).hstat = s.hstat := rfl
@[simp] theorem refuse_cfg (s : State) : (refuse s).cfg = s.cfg := rfl
@[simp] theorem refuse_par (s : State) : (refuse s).par = s.par := rfl
@[simp] theorem refuse_lifecycle (s : State) : (refuse s).lifecycle = s.lifecycle := rfl
@[simp] theorem refuse_initDone (s : State) : (refuse s).initDone = s.initDone := rfl
@[simp] theorem refuse_refused (s : State) : (refuse s).refused = true := rfl
@[simp] theorem refuse_dead (s : State) : (refuse s).dead = s.dead := rfl
@[simp] theorem refuse_lineRes (s : State) : (refuse s).lineRes = s.lineRes := rfl
@[simp] theorem refuse_lineDc (s : State) : (refuse s).lineDc = s.lineDc := rfl
@[simp] theorem refuse_lineCs (s : State) : (refuse s).lineCs = s.lineCs := rfl
@[simp] theorem refuse_spiMode (s : State) : (refuse s).spiMode = s.spiMode := rfl
@[simp] theorem refuse_fb (s : State) : (refuse s).fb = s.fb := rfl
@[simp] theorem refuse_panel (s : State) : (refuse s).panel = s.panel := rfl
@[simp] theorem refuse_trace (s : State) : (refuse s).trace = s.trace := rfl
@[simp] theorem refuse_answers (s : State) : (refuse s).answers = s.answers := rfl
@[simp] theorem refuse_inputs (s : State) : (refuse s).inputs = s.inputs := rfl
@[simp] theorem refuse_draws (s : State) : (refuse s).draws = s.draws := rfl

/-! ## abort -/

@[simp] theorem abort_hop (c : Cause) (s : State) : (abort c s).hop = s.hop := rfl
@[simp] theorem abort_hopWritten (c : Cause) (s : State) : (abort c s).hopWritten = s.hopWritten := rfl
@[simp] theorem abort_haddr (c : Cause) (s : State) : (abort c s).haddr = s.haddr := rfl
@[simp] theorem abort_hdata (c : Cause) (s : State) : (abort c s).hdata = s.hdata := rfl
@[simp] theorem abort_hres (c : Cause) (s : State) : (abort c s).hres = s.hres := rfl
@[simp] theorem abort_busy (c : Cause) (s : State) : (abort c s).busy = false := rfl
@[simp] theorem abort_cur (c : Cause) (s : State) : (abort c s).cur = s.cur := rfl
@[simp] theorem abort_tcl (c : Cause) (s : State) : (abort c s).tcl = s.tcl := rfl
@[simp] theorem abort_tpc (c : Cause) (s : State) : (abort c s).tpc = s.tpc := rfl
@[simp] theorem abort_bpc (c : Cause) (s : State) : (abort c s).bpc = s.bpc := rfl
@[simp] theorem abort_hstat (c : Cause) (s : State) : (abort c s).hstat = mkHstat kindTransport (causeCode c) (curOp s) s.tpc := rfl
@[simp] theorem abort_cfg (c : Cause) (s : State) : (abort c s).cfg = s.cfg := rfl
@[simp] theorem abort_par (c : Cause) (s : State) : (abort c s).par = s.par := rfl
@[simp] theorem abort_lifecycle (c : Cause) (s : State) : (abort c s).lifecycle = s.lifecycle := rfl
@[simp] theorem abort_initDone (c : Cause) (s : State) : (abort c s).initDone = s.initDone := rfl
@[simp] theorem abort_refused (c : Cause) (s : State) : (abort c s).refused = s.refused := rfl
@[simp] theorem abort_dead (c : Cause) (s : State) : (abort c s).dead = s.dead := rfl
@[simp] theorem abort_lineRes (c : Cause) (s : State) : (abort c s).lineRes = s.lineRes := rfl
@[simp] theorem abort_lineDc (c : Cause) (s : State) : (abort c s).lineDc = s.lineDc := rfl
@[simp] theorem abort_lineCs (c : Cause) (s : State) : (abort c s).lineCs = s.lineCs := rfl
@[simp] theorem abort_spiMode (c : Cause) (s : State) : (abort c s).spiMode = s.spiMode := rfl
@[simp] theorem abort_fb (c : Cause) (s : State) : (abort c s).fb = s.fb := rfl
@[simp] theorem abort_panel (c : Cause) (s : State) : (abort c s).panel = s.panel := rfl
@[simp] theorem abort_trace (c : Cause) (s : State) : (abort c s).trace = s.trace := rfl
@[simp] theorem abort_answers (c : Cause) (s : State) : (abort c s).answers = s.answers := rfl
@[simp] theorem abort_inputs (c : Cause) (s : State) : (abort c s).inputs = s.inputs := rfl
@[simp] theorem abort_draws (c : Cause) (s : State) : (abort c s).draws = s.draws := rfl

/-! ## complete -/

@[simp] theorem complete_hop (s : State) : (complete s).hop = s.hop := rfl
@[simp] theorem complete_hopWritten (s : State) : (complete s).hopWritten = s.hopWritten := rfl
@[simp] theorem complete_haddr (s : State) : (complete s).haddr = s.haddr := rfl
@[simp] theorem complete_hdata (s : State) : (complete s).hdata = s.hdata := rfl
@[simp] theorem complete_hres (s : State) : (complete s).hres = s.hres := rfl
@[simp] theorem complete_busy (s : State) : (complete s).busy = false := rfl
@[simp] theorem complete_cur (s : State) : (complete s).cur = s.cur := rfl
@[simp] theorem complete_tcl (s : State) : (complete s).tcl = s.tcl := rfl
@[simp] theorem complete_tpc (s : State) : (complete s).tpc = s.tpc := rfl
@[simp] theorem complete_bpc (s : State) : (complete s).bpc = s.bpc := rfl
@[simp] theorem complete_hstat (s : State) : (complete s).hstat = mkHstat kindOk 0 (curOp s) 0 := rfl
@[simp] theorem complete_cfg (s : State) : (complete s).cfg = s.cfg := rfl
@[simp] theorem complete_par (s : State) : (complete s).par = s.par := rfl
@[simp] theorem complete_lifecycle (s : State) : (complete s).lifecycle = completedLifecycle s := rfl
@[simp] theorem complete_initDone (s : State) : (complete s).initDone = (s.initDone || curOp s == 0x08) := rfl
@[simp] theorem complete_refused (s : State) : (complete s).refused = s.refused := rfl
@[simp] theorem complete_dead (s : State) : (complete s).dead = s.dead := rfl
@[simp] theorem complete_lineRes (s : State) : (complete s).lineRes = s.lineRes := rfl
@[simp] theorem complete_lineDc (s : State) : (complete s).lineDc = s.lineDc := rfl
@[simp] theorem complete_lineCs (s : State) : (complete s).lineCs = s.lineCs := rfl
@[simp] theorem complete_spiMode (s : State) : (complete s).spiMode = s.spiMode := rfl
@[simp] theorem complete_fb (s : State) : (complete s).fb = s.fb := rfl
@[simp] theorem complete_panel (s : State) : (complete s).panel = s.panel := rfl
@[simp] theorem complete_trace (s : State) : (complete s).trace = s.trace := rfl
@[simp] theorem complete_answers (s : State) : (complete s).answers = s.answers := rfl
@[simp] theorem complete_inputs (s : State) : (complete s).inputs = s.inputs := rfl
@[simp] theorem complete_draws (s : State) : (complete s).draws = s.draws := rfl

/-! ## beginOp -/

@[simp] theorem beginOp_hop (w : HopWord) (calls : List TransportCall) (s : State) : (beginOp w calls s).hop = s.hop := rfl
@[simp] theorem beginOp_hopWritten (w : HopWord) (calls : List TransportCall) (s : State) : (beginOp w calls s).hopWritten = s.hopWritten := rfl
@[simp] theorem beginOp_haddr (w : HopWord) (calls : List TransportCall) (s : State) : (beginOp w calls s).haddr = s.haddr := rfl
@[simp] theorem beginOp_hdata (w : HopWord) (calls : List TransportCall) (s : State) : (beginOp w calls s).hdata = s.hdata := rfl
@[simp] theorem beginOp_hres (w : HopWord) (calls : List TransportCall) (s : State) : (beginOp w calls s).hres = s.hres := rfl
@[simp] theorem beginOp_busy (w : HopWord) (calls : List TransportCall) (s : State) : (beginOp w calls s).busy = true := rfl
@[simp] theorem beginOp_cur (w : HopWord) (calls : List TransportCall) (s : State) : (beginOp w calls s).cur = w := rfl
@[simp] theorem beginOp_tcl (w : HopWord) (calls : List TransportCall) (s : State) : (beginOp w calls s).tcl = calls := rfl
@[simp] theorem beginOp_tpc (w : HopWord) (calls : List TransportCall) (s : State) : (beginOp w calls s).tpc = 0 := rfl
@[simp] theorem beginOp_bpc (w : HopWord) (calls : List TransportCall) (s : State) : (beginOp w calls s).bpc = 0 := rfl
@[simp] theorem beginOp_hstat (w : HopWord) (calls : List TransportCall) (s : State) : (beginOp w calls s).hstat = s.hstat := rfl
@[simp] theorem beginOp_cfg (w : HopWord) (calls : List TransportCall) (s : State) : (beginOp w calls s).cfg = s.cfg := rfl
@[simp] theorem beginOp_par (w : HopWord) (calls : List TransportCall) (s : State) : (beginOp w calls s).par = s.par := rfl
@[simp] theorem beginOp_lifecycle (w : HopWord) (calls : List TransportCall) (s : State) : (beginOp w calls s).lifecycle = s.lifecycle := rfl
@[simp] theorem beginOp_initDone (w : HopWord) (calls : List TransportCall) (s : State) : (beginOp w calls s).initDone = s.initDone := rfl
@[simp] theorem beginOp_refused (w : HopWord) (calls : List TransportCall) (s : State) : (beginOp w calls s).refused = s.refused := rfl
@[simp] theorem beginOp_dead (w : HopWord) (calls : List TransportCall) (s : State) : (beginOp w calls s).dead = s.dead := rfl
@[simp] theorem beginOp_lineRes (w : HopWord) (calls : List TransportCall) (s : State) : (beginOp w calls s).lineRes = s.lineRes := rfl
@[simp] theorem beginOp_lineDc (w : HopWord) (calls : List TransportCall) (s : State) : (beginOp w calls s).lineDc = s.lineDc := rfl
@[simp] theorem beginOp_lineCs (w : HopWord) (calls : List TransportCall) (s : State) : (beginOp w calls s).lineCs = s.lineCs := rfl
@[simp] theorem beginOp_spiMode (w : HopWord) (calls : List TransportCall) (s : State) : (beginOp w calls s).spiMode = s.spiMode := rfl
@[simp] theorem beginOp_fb (w : HopWord) (calls : List TransportCall) (s : State) : (beginOp w calls s).fb = s.fb := rfl
@[simp] theorem beginOp_panel (w : HopWord) (calls : List TransportCall) (s : State) : (beginOp w calls s).panel = s.panel := rfl
@[simp] theorem beginOp_trace (w : HopWord) (calls : List TransportCall) (s : State) : (beginOp w calls s).trace = s.trace := rfl
@[simp] theorem beginOp_answers (w : HopWord) (calls : List TransportCall) (s : State) : (beginOp w calls s).answers = s.answers := rfl
@[simp] theorem beginOp_inputs (w : HopWord) (calls : List TransportCall) (s : State) : (beginOp w calls s).inputs = s.inputs := rfl
@[simp] theorem beginOp_draws (w : HopWord) (calls : List TransportCall) (s : State) : (beginOp w calls s).draws = s.draws := rfl

/-! ## fillAll -/

@[simp] theorem fillAll_hop (s : State) (v : Bool) : (fillAll s v).hop = s.hop := rfl
@[simp] theorem fillAll_hopWritten (s : State) (v : Bool) : (fillAll s v).hopWritten = s.hopWritten := rfl
@[simp] theorem fillAll_haddr (s : State) (v : Bool) : (fillAll s v).haddr = s.haddr := rfl
@[simp] theorem fillAll_hdata (s : State) (v : Bool) : (fillAll s v).hdata = s.hdata := rfl
@[simp] theorem fillAll_hres (s : State) (v : Bool) : (fillAll s v).hres = s.hres := rfl
@[simp] theorem fillAll_busy (s : State) (v : Bool) : (fillAll s v).busy = s.busy := rfl
@[simp] theorem fillAll_cur (s : State) (v : Bool) : (fillAll s v).cur = s.cur := rfl
@[simp] theorem fillAll_tcl (s : State) (v : Bool) : (fillAll s v).tcl = s.tcl := rfl
@[simp] theorem fillAll_tpc (s : State) (v : Bool) : (fillAll s v).tpc = s.tpc := rfl
@[simp] theorem fillAll_bpc (s : State) (v : Bool) : (fillAll s v).bpc = s.bpc := rfl
@[simp] theorem fillAll_hstat (s : State) (v : Bool) : (fillAll s v).hstat = s.hstat := rfl
@[simp] theorem fillAll_cfg (s : State) (v : Bool) : (fillAll s v).cfg = s.cfg := rfl
@[simp] theorem fillAll_par (s : State) (v : Bool) : (fillAll s v).par = s.par := rfl
@[simp] theorem fillAll_lifecycle (s : State) (v : Bool) : (fillAll s v).lifecycle = s.lifecycle := rfl
@[simp] theorem fillAll_initDone (s : State) (v : Bool) : (fillAll s v).initDone = s.initDone := rfl
@[simp] theorem fillAll_refused (s : State) (v : Bool) : (fillAll s v).refused = s.refused := rfl
@[simp] theorem fillAll_dead (s : State) (v : Bool) : (fillAll s v).dead = s.dead := rfl
@[simp] theorem fillAll_lineRes (s : State) (v : Bool) : (fillAll s v).lineRes = s.lineRes := rfl
@[simp] theorem fillAll_lineDc (s : State) (v : Bool) : (fillAll s v).lineDc = s.lineDc := rfl
@[simp] theorem fillAll_lineCs (s : State) (v : Bool) : (fillAll s v).lineCs = s.lineCs := rfl
@[simp] theorem fillAll_spiMode (s : State) (v : Bool) : (fillAll s v).spiMode = s.spiMode := rfl
@[simp] theorem fillAll_fb (s : State) (v : Bool) : (fillAll s v).fb = ((List.range s.cfg.fbSize).map fun i => (i, fillByte v)) := rfl
@[simp] theorem fillAll_panel (s : State) (v : Bool) : (fillAll s v).panel = s.panel := rfl
@[simp] theorem fillAll_trace (s : State) (v : Bool) : (fillAll s v).trace = s.trace := rfl
@[simp] theorem fillAll_answers (s : State) (v : Bool) : (fillAll s v).answers = s.answers := rfl
@[simp] theorem fillAll_inputs (s : State) (v : Bool) : (fillAll s v).inputs = s.inputs := rfl
@[simp] theorem fillAll_draws (s : State) (v : Bool) : (fillAll s v).draws = s.draws := rfl

/-! ## memWrite -/

@[simp] theorem memWrite_hop (s : State) (i : Nat) (l : List Byte) : (memWrite s i l).hop = s.hop := rfl
@[simp] theorem memWrite_hopWritten (s : State) (i : Nat) (l : List Byte) : (memWrite s i l).hopWritten = s.hopWritten := rfl
@[simp] theorem memWrite_haddr (s : State) (i : Nat) (l : List Byte) : (memWrite s i l).haddr = s.haddr := rfl
@[simp] theorem memWrite_hdata (s : State) (i : Nat) (l : List Byte) : (memWrite s i l).hdata = s.hdata := rfl
@[simp] theorem memWrite_hres (s : State) (i : Nat) (l : List Byte) : (memWrite s i l).hres = s.hres := rfl
@[simp] theorem memWrite_busy (s : State) (i : Nat) (l : List Byte) : (memWrite s i l).busy = s.busy := rfl
@[simp] theorem memWrite_cur (s : State) (i : Nat) (l : List Byte) : (memWrite s i l).cur = s.cur := rfl
@[simp] theorem memWrite_tcl (s : State) (i : Nat) (l : List Byte) : (memWrite s i l).tcl = s.tcl := rfl
@[simp] theorem memWrite_tpc (s : State) (i : Nat) (l : List Byte) : (memWrite s i l).tpc = s.tpc := rfl
@[simp] theorem memWrite_bpc (s : State) (i : Nat) (l : List Byte) : (memWrite s i l).bpc = s.bpc := rfl
@[simp] theorem memWrite_hstat (s : State) (i : Nat) (l : List Byte) : (memWrite s i l).hstat = s.hstat := rfl
@[simp] theorem memWrite_cfg (s : State) (i : Nat) (l : List Byte) : (memWrite s i l).cfg = s.cfg := rfl
@[simp] theorem memWrite_par (s : State) (i : Nat) (l : List Byte) : (memWrite s i l).par = s.par := rfl
@[simp] theorem memWrite_lifecycle (s : State) (i : Nat) (l : List Byte) : (memWrite s i l).lifecycle = s.lifecycle := rfl
@[simp] theorem memWrite_initDone (s : State) (i : Nat) (l : List Byte) : (memWrite s i l).initDone = s.initDone := rfl
@[simp] theorem memWrite_refused (s : State) (i : Nat) (l : List Byte) : (memWrite s i l).refused = s.refused := rfl
@[simp] theorem memWrite_dead (s : State) (i : Nat) (l : List Byte) : (memWrite s i l).dead = s.dead := rfl
@[simp] theorem memWrite_lineRes (s : State) (i : Nat) (l : List Byte) : (memWrite s i l).lineRes = s.lineRes := rfl
@[simp] theorem memWrite_lineDc (s : State) (i : Nat) (l : List Byte) : (memWrite s i l).lineDc = s.lineDc := rfl
@[simp] theorem memWrite_lineCs (s : State) (i : Nat) (l : List Byte) : (memWrite s i l).lineCs = s.lineCs := rfl
@[simp] theorem memWrite_spiMode (s : State) (i : Nat) (l : List Byte) : (memWrite s i l).spiMode = s.spiMode := rfl
@[simp] theorem memWrite_fb (s : State) (i : Nat) (l : List Byte) : (memWrite s i l).fb = Memory.putAll s.fb i l := rfl
@[simp] theorem memWrite_panel (s : State) (i : Nat) (l : List Byte) : (memWrite s i l).panel = s.panel := rfl
@[simp] theorem memWrite_trace (s : State) (i : Nat) (l : List Byte) : (memWrite s i l).trace = s.trace := rfl
@[simp] theorem memWrite_answers (s : State) (i : Nat) (l : List Byte) : (memWrite s i l).answers = s.answers := rfl
@[simp] theorem memWrite_inputs (s : State) (i : Nat) (l : List Byte) : (memWrite s i l).inputs = s.inputs := rfl
@[simp] theorem memWrite_draws (s : State) (i : Nat) (l : List Byte) : (memWrite s i l).draws = s.draws := rfl

/-! ## takeAnswer -/

@[simp] theorem takeAnswer_hop (s : State) : (takeAnswer s).hop = s.hop := by
  cases s with | mk => rename_i answers _ _; cases answers <;> rfl
@[simp] theorem takeAnswer_hopWritten (s : State) : (takeAnswer s).hopWritten = s.hopWritten := by
  cases s with | mk => rename_i answers _ _; cases answers <;> rfl
@[simp] theorem takeAnswer_haddr (s : State) : (takeAnswer s).haddr = s.haddr := by
  cases s with | mk => rename_i answers _ _; cases answers <;> rfl
@[simp] theorem takeAnswer_hdata (s : State) : (takeAnswer s).hdata = s.hdata := by
  cases s with | mk => rename_i answers _ _; cases answers <;> rfl
@[simp] theorem takeAnswer_hres (s : State) : (takeAnswer s).hres = s.hres := by
  cases s with | mk => rename_i answers _ _; cases answers <;> rfl
@[simp] theorem takeAnswer_busy (s : State) : (takeAnswer s).busy = s.busy := by
  cases s with | mk => rename_i answers _ _; cases answers <;> rfl
@[simp] theorem takeAnswer_cur (s : State) : (takeAnswer s).cur = s.cur := by
  cases s with | mk => rename_i answers _ _; cases answers <;> rfl
@[simp] theorem takeAnswer_tcl (s : State) : (takeAnswer s).tcl = s.tcl := by
  cases s with | mk => rename_i answers _ _; cases answers <;> rfl
@[simp] theorem takeAnswer_tpc (s : State) : (takeAnswer s).tpc = s.tpc := by
  cases s with | mk => rename_i answers _ _; cases answers <;> rfl
@[simp] theorem takeAnswer_bpc (s : State) : (takeAnswer s).bpc = s.bpc := by
  cases s with | mk => rename_i answers _ _; cases answers <;> rfl
@[simp] theorem takeAnswer_hstat (s : State) : (takeAnswer s).hstat = s.hstat := by
  cases s with | mk => rename_i answers _ _; cases answers <;> rfl
@[simp] theorem takeAnswer_cfg (s : State) : (takeAnswer s).cfg = s.cfg := by
  cases s with | mk => rename_i answers _ _; cases answers <;> rfl
@[simp] theorem takeAnswer_par (s : State) : (takeAnswer s).par = s.par := by
  cases s with | mk => rename_i answers _ _; cases answers <;> rfl
@[simp] theorem takeAnswer_lifecycle (s : State) : (takeAnswer s).lifecycle = s.lifecycle := by
  cases s with | mk => rename_i answers _ _; cases answers <;> rfl
@[simp] theorem takeAnswer_initDone (s : State) : (takeAnswer s).initDone = s.initDone := by
  cases s with | mk => rename_i answers _ _; cases answers <;> rfl
@[simp] theorem takeAnswer_refused (s : State) : (takeAnswer s).refused = s.refused := by
  cases s with | mk => rename_i answers _ _; cases answers <;> rfl
@[simp] theorem takeAnswer_dead (s : State) : (takeAnswer s).dead = s.dead := by
  cases s with | mk => rename_i answers _ _; cases answers <;> rfl
@[simp] theorem takeAnswer_lineRes (s : State) : (takeAnswer s).lineRes = s.lineRes := by
  cases s with | mk => rename_i answers _ _; cases answers <;> rfl
@[simp] theorem takeAnswer_lineDc (s : State) : (takeAnswer s).lineDc = s.lineDc := by
  cases s with | mk => rename_i answers _ _; cases answers <;> rfl
@[simp] theorem takeAnswer_lineCs (s : State) : (takeAnswer s).lineCs = s.lineCs := by
  cases s with | mk => rename_i answers _ _; cases answers <;> rfl
@[simp] theorem takeAnswer_spiMode (s : State) : (takeAnswer s).spiMode = s.spiMode := by
  cases s with | mk => rename_i answers _ _; cases answers <;> rfl
@[simp] theorem takeAnswer_fb (s : State) : (takeAnswer s).fb = s.fb := by
  cases s with | mk => rename_i answers _ _; cases answers <;> rfl
@[simp] theorem takeAnswer_panel (s : State) : (takeAnswer s).panel = s.panel := by
  cases s with | mk => rename_i answers _ _; cases answers <;> rfl
@[simp] theorem takeAnswer_trace (s : State) : (takeAnswer s).trace = s.trace := by
  cases s with | mk => rename_i answers _ _; cases answers <;> rfl
@[simp] theorem takeAnswer_answers (s : State) : (takeAnswer s).answers = s.answers.tail := by
  cases s with | mk => rename_i answers _ _; cases answers <;> rfl
@[simp] theorem takeAnswer_inputs (s : State) : (takeAnswer s).inputs = s.inputs := by
  cases s with | mk => rename_i answers _ _; cases answers <;> rfl

/-! ## driveLine -/

@[simp] theorem driveLine_hop (line : Line) (lv : Bool) (s : State) : (driveLine line lv s).hop = s.hop := by
  cases line <;> rfl
@[simp] theorem driveLine_hopWritten (line : Line) (lv : Bool) (s : State) : (driveLine line lv s).hopWritten = s.hopWritten := by
  cases line <;> rfl
@[simp] theorem driveLine_haddr (line : Line) (lv : Bool) (s : State) : (driveLine line lv s).haddr = s.haddr := by
  cases line <;> rfl
@[simp] theorem driveLine_hdata (line : Line) (lv : Bool) (s : State) : (driveLine line lv s).hdata = s.hdata := by
  cases line <;> rfl
@[simp] theorem driveLine_hres (line : Line) (lv : Bool) (s : State) : (driveLine line lv s).hres = s.hres := by
  cases line <;> rfl
@[simp] theorem driveLine_busy (line : Line) (lv : Bool) (s : State) : (driveLine line lv s).busy = s.busy := by
  cases line <;> rfl
@[simp] theorem driveLine_cur (line : Line) (lv : Bool) (s : State) : (driveLine line lv s).cur = s.cur := by
  cases line <;> rfl
@[simp] theorem driveLine_tcl (line : Line) (lv : Bool) (s : State) : (driveLine line lv s).tcl = s.tcl := by
  cases line <;> rfl
@[simp] theorem driveLine_tpc (line : Line) (lv : Bool) (s : State) : (driveLine line lv s).tpc = s.tpc := by
  cases line <;> rfl
@[simp] theorem driveLine_bpc (line : Line) (lv : Bool) (s : State) : (driveLine line lv s).bpc = s.bpc := by
  cases line <;> rfl
@[simp] theorem driveLine_hstat (line : Line) (lv : Bool) (s : State) : (driveLine line lv s).hstat = s.hstat := by
  cases line <;> rfl
@[simp] theorem driveLine_cfg (line : Line) (lv : Bool) (s : State) : (driveLine line lv s).cfg = s.cfg := by
  cases line <;> rfl
@[simp] theorem driveLine_par (line : Line) (lv : Bool) (s : State) : (driveLine line lv s).par = s.par := by
  cases line <;> rfl
@[simp] theorem driveLine_lifecycle (line : Line) (lv : Bool) (s : State) : (driveLine line lv s).lifecycle = s.lifecycle := by
  cases line <;> rfl
@[simp] theorem driveLine_initDone (line : Line) (lv : Bool) (s : State) : (driveLine line lv s).initDone = s.initDone := by
  cases line <;> rfl
@[simp] theorem driveLine_refused (line : Line) (lv : Bool) (s : State) : (driveLine line lv s).refused = s.refused := by
  cases line <;> rfl
@[simp] theorem driveLine_dead (line : Line) (lv : Bool) (s : State) : (driveLine line lv s).dead = s.dead := by
  cases line <;> rfl
@[simp] theorem driveLine_spiMode (line : Line) (lv : Bool) (s : State) : (driveLine line lv s).spiMode = s.spiMode := by
  cases line <;> rfl
@[simp] theorem driveLine_fb (line : Line) (lv : Bool) (s : State) : (driveLine line lv s).fb = s.fb := by
  cases line <;> rfl
@[simp] theorem driveLine_panel (line : Line) (lv : Bool) (s : State) : (driveLine line lv s).panel = s.panel := by
  cases line <;> rfl
@[simp] theorem driveLine_trace (line : Line) (lv : Bool) (s : State) : (driveLine line lv s).trace = s.trace := by
  cases line <;> rfl
@[simp] theorem driveLine_answers (line : Line) (lv : Bool) (s : State) : (driveLine line lv s).answers = s.answers := by
  cases line <;> rfl
@[simp] theorem driveLine_inputs (line : Line) (lv : Bool) (s : State) : (driveLine line lv s).inputs = s.inputs := by
  cases line <;> rfl
@[simp] theorem driveLine_draws (line : Line) (lv : Bool) (s : State) : (driveLine line lv s).draws = s.draws := by
  cases line <;> rfl

@[simp] theorem driveLine_lineRes (line : Line) (lv : Bool) (s : State) :
    (driveLine line lv s).lineRes = if line = .res then levelOf lv else s.lineRes := by
  cases line <;> rfl
@[simp] theorem driveLine_lineDc (line : Line) (lv : Bool) (s : State) :
    (driveLine line lv s).lineDc = if line = .dc then levelOf lv else s.lineDc := by
  cases line <;> rfl
@[simp] theorem driveLine_lineCs (line : Line) (lv : Bool) (s : State) :
    (driveLine line lv s).lineCs = if line = .cs then levelOf lv else s.lineCs := by
  cases line <;> rfl

/-! ## callDone -/

@[simp] theorem callDone_hop (s : State) : (callDone s).hop = s.hop := rfl
@[simp] theorem callDone_hopWritten (s : State) : (callDone s).hopWritten = s.hopWritten := rfl
@[simp] theorem callDone_haddr (s : State) : (callDone s).haddr = s.haddr := rfl
@[simp] theorem callDone_hdata (s : State) : (callDone s).hdata = s.hdata := rfl
@[simp] theorem callDone_hres (s : State) : (callDone s).hres = s.hres := rfl
@[simp] theorem callDone_busy (s : State) : (callDone s).busy = s.busy := rfl
@[simp] theorem callDone_cur (s : State) : (callDone s).cur = s.cur := rfl
@[simp] theorem callDone_tcl (s : State) : (callDone s).tcl = s.tcl := rfl
@[simp] theorem callDone_tpc (s : State) : (callDone s).tpc = s.tpc + 1 := rfl
@[simp] theorem callDone_bpc (s : State) : (callDone s).bpc = 0 := rfl
@[simp] theorem callDone_hstat (s : State) : (callDone s).hstat = s.hstat := rfl
@[simp] theorem callDone_cfg (s : State) : (callDone s).cfg = s.cfg := rfl
@[simp] theorem callDone_par (s : State) : (callDone s).par = s.par := rfl
@[simp] theorem callDone_lifecycle (s : State) : (callDone s).lifecycle = progressLifecycle s := rfl
@[simp] theorem callDone_initDone (s : State) : (callDone s).initDone = s.initDone := rfl
@[simp] theorem callDone_refused (s : State) : (callDone s).refused = s.refused := rfl
@[simp] theorem callDone_dead (s : State) : (callDone s).dead = s.dead := rfl
@[simp] theorem callDone_lineRes (s : State) : (callDone s).lineRes = s.lineRes := rfl
@[simp] theorem callDone_lineDc (s : State) : (callDone s).lineDc = s.lineDc := rfl
@[simp] theorem callDone_lineCs (s : State) : (callDone s).lineCs = s.lineCs := rfl
@[simp] theorem callDone_spiMode (s : State) : (callDone s).spiMode = s.spiMode := rfl
@[simp] theorem callDone_fb (s : State) : (callDone s).fb = s.fb := rfl
@[simp] theorem callDone_panel (s : State) : (callDone s).panel = s.panel := rfl
@[simp] theorem callDone_trace (s : State) : (callDone s).trace = s.trace := rfl
@[simp] theorem callDone_answers (s : State) : (callDone s).answers = s.answers := rfl
@[simp] theorem callDone_inputs (s : State) : (callDone s).inputs = s.inputs := rfl
@[simp] theorem callDone_draws (s : State) : (callDone s).draws = s.draws := rfl

end Sys2Proof.Machine
end

