-- ==== Sys2Proof/Laws/Memory.lean ====
section
/-! SUPPORT. Memory: a read after a write, and the canonical form (rules R10, R62, R240). -/

namespace Sys2Proof.Machine

theorem byte?_put_same (m : Memory) (i : Nat) (v : Byte) : Memory.byte? (Memory.put m i v) i = some v := by
  induction m with
  | nil => simp [Memory.put, Memory.byte?]
  | cons c m ih =>
    obtain ⟨a, w⟩ := c
    simp only [Memory.put]
    split
    · simp [Memory.byte?]
    · split
      · simp [Memory.byte?]
      · rename_i h
        simp [Memory.byte?, Ne.symm h, ih]

theorem byte?_put_other (m : Memory) (i j : Nat) (v : Byte) (h : j ≠ i) :
    Memory.byte? (Memory.put m i v) j = Memory.byte? m j := by
  induction m with
  | nil => simp [Memory.put, Memory.byte?, Ne.symm h]
  | cons c m ih =>
    obtain ⟨a, w⟩ := c
    simp only [Memory.put]
    split
    · simp [Memory.byte?, Ne.symm h]
    · split
      · subst_vars
        simp [Memory.byte?, Ne.symm h]
      · simp [Memory.byte?, ih]

/-- A read after a write. -/
theorem byte?_put (m : Memory) (i j : Nat) (v : Byte) :
    Memory.byte? (Memory.put m i v) j = if j = i then some v else Memory.byte? m j := by
  split
  · subst_vars; exact byte?_put_same ..
  · exact byte?_put_other _ _ _ _ ‹_›

/-- A read after a write of a list. -/
theorem byte?_putAll (m : Memory) (i j : Nat) (l : List Byte) :
    Memory.byte? (Memory.putAll m i l) j =
      if i ≤ j ∧ j < i + l.length then l[j - i]? else Memory.byte? m j := by
  induction l generalizing m i with
  | nil => simp [Memory.putAll]
  | cons v l ih =>
    simp only [Memory.putAll, ih, byte?_put, List.length_cons]
    by_cases h1 : j = i
    · subst h1
      rw [if_neg (by omega), if_pos rfl, if_pos (by omega)]
      simp
    · by_cases h2 : i + 1 ≤ j ∧ j < i + 1 + l.length
      · rw [if_pos h2, if_pos (by omega)]
        obtain ⟨k, hk⟩ : ∃ k, j - i = k + 1 := ⟨j - i - 1, by omega⟩
        rw [hk, show j - (i + 1) = k by omega]
        simp
      · rw [if_neg h2, if_neg h1, if_neg (by omega)]

/-- The addresses of a memory after a write. -/
theorem mem_put (m : Memory) (i : Nat) (v : Byte) (c : Host.Cell) (h : c ∈ Memory.put m i v) :
    c = (i, v) ∨ c ∈ m := by
  induction m with
  | nil => simpa [Memory.put] using h
  | cons d m ih =>
    obtain ⟨a, w⟩ := d
    simp only [Memory.put] at h
    split at h
    · simpa using h
    · split at h
      · rcases List.mem_cons.1 h with h | h
        · exact .inl h
        · exact .inr (List.mem_cons_of_mem _ h)
      · rcases List.mem_cons.1 h with h | h
        · exact .inr (by simp [h])
        · rcases ih h with h | h
          · exact .inl h
          · exact .inr (List.mem_cons_of_mem _ h)

/-- The canonical form, as the order of the addresses. -/
theorem wf_iff (m : Memory) : Memory.wf m = true ↔ m.Pairwise (fun c d => c.1 < d.1) := by
  induction m with
  | nil => simp [Memory.wf]
  | cons c m ih =>
    obtain ⟨a, v⟩ := c
    cases m with
    | nil => simp [Memory.wf]
    | cons d m =>
      obtain ⟨b, w⟩ := d
      rw [List.pairwise_cons]
      simp only [Memory.wf, Bool.and_eq_true, decide_eq_true_eq, ih]
      constructor
      · rintro ⟨hab, hm⟩
        refine ⟨?_, hm⟩
        intro e he
        rcases List.mem_cons.1 he with rfl | he
        · exact hab
        · exact Nat.lt_trans hab ((List.pairwise_cons.1 hm).1 e he)
      · rintro ⟨h, hm⟩
        exact ⟨h (b, w) (by simp), hm⟩

/-- A write keeps the canonical form. -/
theorem wf_put (m : Memory) (i : Nat) (v : Byte) (h : Memory.wf m = true) :
    Memory.wf (Memory.put m i v) = true := by
  rw [wf_iff] at *
  induction m with
  | nil => simp [Memory.put]
  | cons c m ih =>
    obtain ⟨a, w⟩ := c
    obtain ⟨hlt, hm⟩ := List.pairwise_cons.1 h
    simp only [Memory.put]
    split
    · rename_i hia
      refine List.pairwise_cons.2 ⟨?_, h⟩
      intro e he
      rcases List.mem_cons.1 he with rfl | he
      · exact hia
      · exact Nat.lt_trans hia (hlt e he)
    · split
      · rename_i hia
        exact List.pairwise_cons.2 ⟨fun e he => by have := hlt e he; simp only at *; omega, hm⟩
      · refine List.pairwise_cons.2 ⟨?_, ih hm⟩
        intro e he
        rcases mem_put _ _ _ _ he with rfl | he
        · simp only at *; omega
        · exact hlt e he

/-- A write of a list keeps the canonical form. -/
theorem wf_putAll (m : Memory) (i : Nat) (l : List Byte) (h : Memory.wf m = true) :
    Memory.wf (Memory.putAll m i l) = true := by
  induction l generalizing m i with
  | nil => exact h
  | cons v l ih => exact ih _ _ (wf_put _ _ _ h)

/-- The cells of a memory after a write of a list. -/
theorem mem_putAll (m : Memory) (i : Nat) (l : List Byte) (c : Host.Cell)
    (h : c ∈ Memory.putAll m i l) : (i ≤ c.1 ∧ c.1 < i + l.length) ∨ c ∈ m := by
  induction l generalizing m i with
  | nil => exact .inr h
  | cons v l ih =>
    rcases ih _ _ h with h | h
    · exact .inl ⟨by omega, by simp only [List.length_cons]; omega⟩
    · rcases mem_put _ _ _ _ h with rfl | h
      · exact .inl ⟨Nat.le_refl _, by simp⟩
      · exact .inr h

/-- A memory that lists every address below `n` is in canonical form. -/
theorem wf_range (n : Nat) (f : Nat → Byte) : Memory.wf ((List.range n).map fun i => (i, f i)) = true := by
  rw [wf_iff, List.pairwise_map]
  exact List.pairwise_lt_range

/-- FILL: every byte below `n` reads as written. -/
theorem byte?_range (n i : Nat) (f : Nat → Byte) :
    Memory.byte? ((List.range n).map fun i => (i, f i)) i = if i < n then some (f i) else none := by
  induction n with
  | zero => simp [Memory.byte?]
  | succ n ih =>
    have append (m m' : Memory) : Memory.byte? (m ++ m') i = (Memory.byte? m i).or (Memory.byte? m' i) := by
      induction m with
      | nil => simp [Memory.byte?]
      | cons c m ih => obtain ⟨a, v⟩ := c; by_cases h : a = i <;> simp [Memory.byte?, h, ih]
    rw [List.range_succ, List.map_append, append, ih]
    by_cases h : i < n
    · simp [h, Nat.lt_succ_of_lt h]
    · by_cases h' : i = n
      · subst h'; simp [Memory.byte?]
      · have : ¬ i < n + 1 := by omega
        simp [h, this, Memory.byte?, Ne.symm h']

theorem fbByte_memWrite (s : State) (i j : Nat) (v : Byte) :
    fbByte (memWrite s i [v]) j = if j = i then v else fbByte s j := by
  simp only [fbByte, memWrite_fb, Memory.putAll, byte?_put]
  split <;> rfl

theorem fbByte_fillAll (s : State) (v : Bool) (i : Nat) (h : i < s.cfg.fbSize) :
    fbByte (fillAll s v) i = fillByte v := by
  simp [fbByte, byte?_range, h]

@[simp] theorem memRead_length (s : State) (i n : Nat) : (memRead s i n).length = n := by
  simp [memRead]

theorem memRead_getElem? (s : State) (i n k : Nat) (h : k < n) :
    (memRead s i n)[k]? = some (fbByte s (i + k)) := by
  simp [memRead, h]

/-- Two places of the display memory have the same key only if they are the same place: the key is the
library's pairing function. -/
theorem pramAddr_inj {pg col pg' col' : Nat} :
    pramAddr pg col = pramAddr pg' col' ↔ pg = pg' ∧ col = col' :=
  Nat.pair_eq_pair

/-- What a stored data byte leaves of the display memory (rules R40, R240). -/
theorem pramByte_put (p : Panel) (pg col pg' col' : Nat) (v : Byte) :
    pramByte { p with pram := Memory.put p.pram (pramAddr pg col) v } pg' col' =
      if pg' = pg ∧ col' = col then v else pramByte p pg' col' := by
  simp only [pramByte, byte?_put, pramAddr_inj]
  split <;> rfl

end Sys2Proof.Machine
end

