-- ==== Sys2Proof/Laws/Sequencer.lean ====
section
/-! SUPPORT. The sequencer: what one bus action can change, and an operation that meets no error run to
its end call by call (rules R26, R66, R120, R143, R271). -/

namespace Sys2Proof.Machine

/-! ## What one bus action can change -/

/-- What a bus action, delivered whole or in part, leaves as it was: everything but the wire trace, the
lines, the bus mode and the panel's side. -/
structure BusFrame (s t : State) : Prop where
  hop : t.hop = s.hop
  hopWritten : t.hopWritten = s.hopWritten
  haddr : t.haddr = s.haddr
  hdata : t.hdata = s.hdata
  hres : t.hres = s.hres
  busy : t.busy = s.busy
  cur : t.cur = s.cur
  tcl : t.tcl = s.tcl
  tpc : t.tpc = s.tpc
  bpc : t.bpc = s.bpc
  hstat : t.hstat = s.hstat
  cfg : t.cfg = s.cfg
  par : t.par = s.par
  lifecycle : t.lifecycle = s.lifecycle
  initDone : t.initDone = s.initDone
  dead : t.dead = s.dead
  fb : t.fb = s.fb
  inputs : t.inputs = s.inputs

theorem BusFrame.rfl' (s : State) : BusFrame s s := by constructor <;> rfl

theorem BusFrame.trans {s t u : State} (h : BusFrame s t) (h' : BusFrame t u) : BusFrame s u := by
  constructor
  · exact h'.hop.trans h.hop
  · exact h'.hopWritten.trans h.hopWritten
  · exact h'.haddr.trans h.haddr
  · exact h'.hdata.trans h.hdata
  · exact h'.hres.trans h.hres
  · exact h'.busy.trans h.busy
  · exact h'.cur.trans h.cur
  · exact h'.tcl.trans h.tcl
  · exact h'.tpc.trans h.tpc
  · exact h'.bpc.trans h.bpc
  · exact h'.hstat.trans h.hstat
  · exact h'.cfg.trans h.cfg
  · exact h'.par.trans h.par
  · exact h'.lifecycle.trans h.lifecycle
  · exact h'.initDone.trans h.initDone
  · exact h'.dead.trans h.dead
  · exact h'.fb.trans h.fb
  · exact h'.inputs.trans h.inputs

theorem panelReceives_frame (a : BusAction) (s : State) : BusFrame s (panelReceives a s) := by
  constructor <;> rfl

theorem perform_frame (a : BusAction) (s : State) : BusFrame s (perform a s) := by
  refine BusFrame.trans ?_ (panelReceives_frame a (blockDrives a (emit a s)))
  cases a with
  | pin line lv => constructor <;> simp [blockDrives]
  | wait ms => constructor <;> rfl
  | i2cTxn l => constructor <;> rfl
  | spiCfg m => constructor <;> rfl
  | spiXfer l => constructor <;> rfl

theorem performFailed_frame (a : BusAction) (n : Nat) (s : State) : BusFrame s (performFailed a n s) := by
  refine BusFrame.trans ?_ (panelReceives_frame (deliveredPart a n) (blockDrivesFailed a (emit a s)))
  cases a <;> constructor <;> rfl

theorem takeAnswer_frame (s : State) : BusFrame s (takeAnswer s) := by constructor <;> simp

@[simp] theorem perform_trace (a : BusAction) (s : State) : (perform a s).trace = s.trace ++ [a] := by
  cases a <;> simp [perform, panelReceives, blockDrives]

@[simp] theorem performFailed_trace (a : BusAction) (n : Nat) (s : State) :
    (performFailed a n s).trace = s.trace ++ [a] := by
  cases a <;> simp [performFailed, panelReceives, blockDrivesFailed]

@[simp] theorem perform_answers (a : BusAction) (s : State) : (perform a s).answers = s.answers := by
  cases a <;> simp [perform, panelReceives, blockDrives]

@[simp] theorem performFailed_answers (a : BusAction) (n : Nat) (s : State) :
    (performFailed a n s).answers = s.answers := by
  cases a <;> simp [performFailed, panelReceives, blockDrivesFailed]

/-- The bus actions of a call depend on the configuration and the framebuffer only. -/
theorem expansion_congr {s t : State} (hc : t.cfg = s.cfg) (hf : t.fb = s.fb) (call : TransportCall) :
    expansion t call = expansion s call := by
  cases call <;> simp [expansion, pageBytes, memRead, fbByte, hc, hf]

/-- A state with `BPC` at `j`. -/
def atBpc (s : State) (j : Nat) : State := { s with bpc := j }

/-- A bus action does not read `BPC`. -/
theorem perform_atBpc (a : BusAction) (s : State) (j : Nat) :
    perform a (atBpc s j) = atBpc (perform a s) j := by
  cases a with
  | pin line lv => cases line <;> rfl
  | wait ms => rfl
  | i2cTxn l => rfl
  | spiCfg m => rfl
  | spiXfer l => rfl

theorem takeAnswer_atBpc (s : State) (j : Nat) : takeAnswer (atBpc s j) = atBpc (takeAnswer s) j := by
  unfold takeAnswer atBpc
  cases s.answers <;> rfl

theorem callDone_atBpc (s : State) (j : Nat) : callDone (atBpc s j) = callDone s := rfl

/-! ## An operation that meets no error -/

/-- One bus action that succeeds, with the answer it takes. -/
def succeed (s : State) (a : BusAction) : State :=
  perform a (if a.fallible then takeAnswer s else s)

/-- Bus actions that all succeed. -/
def succeedAll (acts : List BusAction) (s : State) : State := acts.foldl succeed s

theorem succeed_frame (a : BusAction) (s : State) : BusFrame s (succeed s a) := by
  unfold succeed
  split
  · exact (takeAnswer_frame s).trans (perform_frame a _)
  · exact perform_frame a s

theorem succeedAll_frame (acts : List BusAction) (s : State) : BusFrame s (succeedAll acts s) := by
  induction acts generalizing s with
  | nil => exact BusFrame.rfl' s
  | cons a acts ih => exact (succeed_frame a s).trans (ih _)

theorem succeed_trace (a : BusAction) (s : State) : (succeed s a).trace = s.trace ++ [a] := by
  unfold succeed
  split <;> simp

theorem succeedAll_trace (acts : List BusAction) (s : State) :
    (succeedAll acts s).trace = s.trace ++ acts := by
  induction acts generalizing s with
  | nil => simp [succeedAll]
  | cons a acts ih => simpa [succeedAll, succeed_trace] using ih (succeed s a)

/-- The number of fallible bus actions of a list. -/
def fallibleCount (acts : List BusAction) : Nat := acts.countP (·.fallible)

theorem succeed_answers (a : BusAction) (s : State) :
    (succeed s a).answers = s.answers.drop (if a.fallible then 1 else 0) := by
  unfold succeed
  split <;> simp

theorem succeedAll_answers (acts : List BusAction) (s : State) :
    (succeedAll acts s).answers = s.answers.drop (fallibleCount acts) := by
  induction acts generalizing s with
  | nil => simp [succeedAll, fallibleCount]
  | cons a acts ih =>
    have h := ih (succeed s a)
    simp only [succeedAll, List.foldl_cons] at h ⊢
    rw [h, succeed_answers, List.drop_drop, fallibleCount, fallibleCount, List.countP_cons]
    congr 1
    omega

theorem succeed_atBpc (a : BusAction) (s : State) (j : Nat) :
    succeed (atBpc s j) a = atBpc (succeed s a) j := by
  unfold succeed
  split
  · rw [takeAnswer_atBpc, perform_atBpc]
  · rw [perform_atBpc]

theorem succeedAll_atBpc (acts : List BusAction) (s : State) (j : Nat) :
    succeedAll acts (atBpc s j) = atBpc (succeedAll acts s) j := by
  induction acts generalizing s with
  | nil => rfl
  | cons a acts ih =>
    simp only [succeedAll, List.foldl_cons] at ih ⊢
    rw [succeed_atBpc, ih]

theorem answersOk_succ {s : State} {n : Nat} (h : s.answersOk (n + 1)) :
    nextAnswer s = .ok ∧ s.answers.tail.take n = List.replicate n .ok := by
  unfold State.answersOk at h
  unfold nextAnswer
  cases hs : s.answers with
  | nil => simp [hs] at h
  | cons r l =>
    rw [hs, List.take_succ_cons, List.replicate_succ] at h
    exact ⟨(List.cons.inj h).1, by simpa using (List.cons.inj h).2⟩

theorem busStep_ok (a : BusAction) (n : Nat) (s : State) (h : a.fallible = true → nextAnswer s = .ok) :
    busStep a n s = advance n (succeed s a) := by
  unfold busStep succeed
  split
  · rename_i hf
    rw [h hf]
    rfl
  · rfl

/-- The rest of a transport call whose bus actions all succeed. -/
theorem seqRun_actions (call : TransportCall) (acts done : List BusAction) (s : State) (n : Nat)
    (hb : s.busy = true) (hc : s.tcl[s.tpc]? = some call) (he : expansion s call = done ++ acts)
    (hp : s.bpc = done.length) (hne : acts ≠ []) (ha : s.answersOk (fallibleCount acts)) :
    seqRun (acts.length + n) s = seqRun n (callDone (succeedAll acts s)) := by
  induction acts generalizing s done with
  | nil => exact absurd rfl hne
  | cons a acts ih =>
    have hok : a.fallible = true → nextAnswer s = .ok := fun hf => by
      refine (answersOk_succ (n := fallibleCount acts) ?_).1
      simpa [fallibleCount, hf] using ha
    have hstep : seqStep s = advance (expansion s call).length (succeed s a) := by
      have h : (expansion s call)[s.bpc]? = some a := by simp [he, hp]
      simp only [seqStep, hc, h]
      exact busStep_ok a _ s hok
    have hfr := succeed_frame a s
    rw [show (a :: acts).length + n = (acts.length + n) + 1 by simp; omega, seqRun, if_pos hb, hstep]
    simp only [advance, hfr.bpc, hp, he, List.length_append, List.length_cons]
    cases acts with
    | nil => simp [succeedAll]
    | cons a' acts =>
      rw [if_pos (by simp)]
      have hexp : expansion (atBpc (succeed s a) (done.length + 1)) call = (done ++ [a]) ++ a' :: acts := by
        rw [expansion_congr (s := s) (t := atBpc (succeed s a) (done.length + 1)) hfr.cfg hfr.fb, he]
        simp
      have := ih (done ++ [a]) (atBpc (succeed s a) (done.length + 1)) (by simp [atBpc, hfr.busy, hb])
        (by simpa [atBpc, hfr.tcl, hfr.tpc] using hc) hexp (by simp [atBpc]) (by simp) ?_
      · rw [succeedAll_atBpc, callDone_atBpc] at this
        exact this
      · unfold State.answersOk at ha ⊢
        simp only [atBpc, succeed_answers]
        by_cases hf : a.fallible = true
        · have := (answersOk_succ (s := s) (n := fallibleCount (a' :: acts)) (by
            simpa [State.answersOk, fallibleCount, hf] using ha)).2
          simpa [hf] using this
        · simpa [fallibleCount, hf] using ha

/-- A transport call that meets no error. -/
def runCall (s : State) (call : TransportCall) : State :=
  callDone (succeedAll (expansion s call) (internalEffect s call))

/-- Transport calls that meet no error. -/
def runCalls (calls : List TransportCall) (s : State) : State := calls.foldl runCall s

/-- What transport calls leave as it was: the host's registers, the operation in progress, the
configuration, `HSTAT`, `INIT_DONE`. -/
structure CallFrame (s t : State) : Prop where
  hop : t.hop = s.hop
  hopWritten : t.hopWritten = s.hopWritten
  haddr : t.haddr = s.haddr
  hdata : t.hdata = s.hdata
  busy : t.busy = s.busy
  cur : t.cur = s.cur
  tcl : t.tcl = s.tcl
  hstat : t.hstat = s.hstat
  cfg : t.cfg = s.cfg
  par : t.par = s.par
  initDone : t.initDone = s.initDone
  dead : t.dead = s.dead
  inputs : t.inputs = s.inputs

theorem CallFrame.rfl' (s : State) : CallFrame s s := by constructor <;> rfl

theorem CallFrame.trans {s t u : State} (h : CallFrame s t) (h' : CallFrame t u) : CallFrame s u := by
  constructor
  · exact h'.hop.trans h.hop
  · exact h'.hopWritten.trans h.hopWritten
  · exact h'.haddr.trans h.haddr
  · exact h'.hdata.trans h.hdata
  · exact h'.busy.trans h.busy
  · exact h'.cur.trans h.cur
  · exact h'.tcl.trans h.tcl
  · exact h'.hstat.trans h.hstat
  · exact h'.cfg.trans h.cfg
  · exact h'.par.trans h.par
  · exact h'.initDone.trans h.initDone
  · exact h'.dead.trans h.dead
  · exact h'.inputs.trans h.inputs

theorem BusFrame.call {s t : State} (h : BusFrame s t) : CallFrame s t :=
  { hop := h.hop, hopWritten := h.hopWritten, haddr := h.haddr, hdata := h.hdata, busy := h.busy,
    cur := h.cur, tcl := h.tcl, hstat := h.hstat, cfg := h.cfg, par := h.par, initDone := h.initDone,
    dead := h.dead, inputs := h.inputs }

theorem internalEffect_frame (s : State) (call : TransportCall) :
    CallFrame s (internalEffect s call) ∧ (internalEffect s call).tpc = s.tpc ∧
      (internalEffect s call).trace = s.trace ∧ (internalEffect s call).answers = s.answers ∧
      (internalEffect s call).rx = s.rx ∧ (internalEffect s call).wires = s.wires ∧
      (internalEffect s call).lifecycle = s.lifecycle := by
  cases call <;> (refine ⟨?_, rfl, rfl, rfl, rfl, rfl, rfl⟩; constructor <;> rfl)

theorem runCall_frame (s : State) (call : TransportCall) : CallFrame s (runCall s call) :=
  ((internalEffect_frame s call).1.trans (succeedAll_frame _ _).call).trans (by constructor <;> rfl)

theorem runCalls_frame (calls : List TransportCall) (s : State) : CallFrame s (runCalls calls s) := by
  induction calls generalizing s with
  | nil => exact CallFrame.rfl' s
  | cons c calls ih => exact (runCall_frame s c).trans (ih _)

@[simp] theorem runCall_tpc (s : State) (call : TransportCall) : (runCall s call).tpc = s.tpc + 1 := by
  simp [runCall, (succeedAll_frame _ _).tpc, (internalEffect_frame s call).2.1]

@[simp] theorem runCall_bpc (s : State) (call : TransportCall) : (runCall s call).bpc = 0 := rfl

theorem runCall_trace (s : State) (call : TransportCall) :
    (runCall s call).trace = s.trace ++ expansion s call := by
  simp [runCall, succeedAll_trace, (internalEffect_frame s call).2.2.1]

theorem runCall_answers (s : State) (call : TransportCall) :
    (runCall s call).answers = s.answers.drop (fallibleCount (expansion s call)) := by
  simp [runCall, succeedAll_answers, (internalEffect_frame s call).2.2.2.1]

theorem fallibleCount_expansion (s : State) (call : TransportCall) :
    fallibleCount (expansion s call) = callLoad s.cfg call := by
  cases call <;> simp only [expansion, callLoad, cmdActions, dataActions, spiActions] <;>
    cases s.cfg.bus <;> cases s.cfg.hasCs <;> rfl

theorem length_expansion (s : State) (call : TransportCall) : (expansion s call).length ≤ 6 := by
  cases call <;> simp only [expansion, cmdActions, dataActions, spiActions] <;>
    cases s.cfg.bus <;> cases s.cfg.hasCs <;> simp

/-- A transport call has an effect of its own only if it has no bus action. -/
theorem internalEffect_of_expansion (s : State) (call : TransportCall) (h : expansion s call ≠ []) :
    internalEffect s call = s := by
  cases call <;> first | rfl | exact absurd rfl h

/-- One transport call that meets no error, step by step. -/
theorem seqRun_call (call : TransportCall) (s : State) (hb : s.busy = true)
    (hc : s.tcl[s.tpc]? = some call) (hp : s.bpc = 0) (ha : s.answersOk (callLoad s.cfg call)) :
    ∃ m ≤ 6, ∀ n, seqRun (m + n) s = seqRun n (runCall s call) := by
  by_cases he : expansion s call = []
  · refine ⟨1, by omega, fun n => ?_⟩
    rw [Nat.add_comm, seqRun, if_pos hb]
    simp [seqStep, hc, he, runCall, succeedAll]
  · refine ⟨(expansion s call).length, length_expansion s call, fun n => ?_⟩
    rw [seqRun_actions call _ [] s n hb hc (by simp) (by simpa using hp) he
      (by rwa [fallibleCount_expansion]), runCall, internalEffect_of_expansion _ _ he]

theorem answersOk_add {s : State} {m n : Nat} (h : s.answersOk (m + n)) :
    s.answersOk m ∧ (s.answers.drop m).take n = List.replicate n .ok := by
  unfold State.answersOk at h ⊢
  rw [List.take_add] at h
  have hl := congrArg List.length h
  have hm : (s.answers.take m).length = m := by
    simp only [List.length_append, List.length_take, List.length_drop, List.length_replicate] at hl ⊢
    omega
  rw [List.replicate_add] at h
  exact List.append_inj h (by simpa using hm)

theorem busLoad_cons (c : Cfg) (call : TransportCall) (calls : List TransportCall) :
    busLoad c (call :: calls) = callLoad c call + busLoad c calls := by
  simp [busLoad]

/-- Transport calls that meet no error, step by step. -/
theorem seqRun_calls (calls done : List TransportCall) (s : State) (hb : s.busy = true)
    (ht : s.tcl = done ++ calls) (hc : s.tpc = done.length) (hp : s.bpc = 0)
    (ha : s.answersOk (busLoad s.cfg calls)) :
    ∃ m ≤ 6 * calls.length, ∀ n, seqRun (m + n) s = seqRun n (runCalls calls s) := by
  induction calls generalizing s done with
  | nil => exact ⟨0, by simp, by simp [runCalls]⟩
  | cons call calls ih =>
    rw [busLoad_cons] at ha
    obtain ⟨ha1, ha2⟩ := answersOk_add ha
    have hfr := runCall_frame s call
    obtain ⟨m', hm', h'⟩ := ih (done ++ [call]) (runCall s call) (hfr.busy.trans hb)
      (by rw [hfr.tcl, ht]; simp) (by simp [hc]) rfl
      (by unfold State.answersOk; rw [runCall_answers, fallibleCount_expansion, hfr.cfg]; exact ha2)
    obtain ⟨m, hm, h⟩ := seqRun_call call s hb (by simp [ht, hc]) hp ha1
    refine ⟨m + m', by simp only [List.length_cons]; omega, fun n => ?_⟩
    rw [Nat.add_assoc, h, h']
    rfl

theorem seqRun_idle (n : Nat) (s : State) (h : s.busy = false) : seqRun n s = s := by
  cases n with
  | zero => rfl
  | succ n => simp [seqRun, h]

theorem runCalls_tpc (calls : List TransportCall) (s : State) :
    (runCalls calls s).tpc = s.tpc + calls.length := by
  induction calls generalizing s with
  | nil => rfl
  | cons c calls ih =>
    have := ih (runCall s c)
    simp only [runCalls, List.foldl_cons, runCall_tpc, List.length_cons] at this ⊢
    omega

/-- An operation that meets no error runs all its transport calls and completes (rules R120, R271). -/
theorem runToIdle_ok (s : State) (hb : s.busy = true) (hc : s.tpc = 0) (hp : s.bpc = 0)
    (ha : s.answersOk (busLoad s.cfg s.tcl)) : runToIdle s = complete (runCalls s.tcl s) := by
  obtain ⟨m, hm, h⟩ := seqRun_calls s.tcl [] s hb rfl hc hp ha
  have hfr := runCalls_frame s.tcl s
  obtain ⟨k, hk⟩ : ∃ k, opFuel s = m + (k + 1) := ⟨6 * s.tcl.length - m, by unfold opFuel; omega⟩
  have hend : seqStep (runCalls s.tcl s) = complete (runCalls s.tcl s) := by
    simp [seqStep, hfr.tcl, runCalls_tpc, hc]
  rw [runToIdle, hk, h, seqRun, if_pos (hfr.busy.trans hb), hend]
  exact seqRun_idle _ _ rfl

end Sys2Proof.Machine
end

