-- ==== Sys2Proof/Laws/Panel.lean ====
section
/-! SUPPORT. The panel's side of a transport call: what CMD and DATA deliver, on either transport, to a
panel that listens (rules R231 to R238, R240 to R248). -/

namespace Sys2Proof.Machine

@[simp] theorem heard_idem (p : Panel) : p.heard.heard = p.heard := rfl

@[simp] theorem lost_known (s : Standing) : s.lost.known = false := by cases s <;> rfl

@[simp] theorem redraw_standing (c : Cfg) (r : Rx) : (r.redraw c).panel.standing = r.panel.standing := rfl

@[simp] theorem refuse_standing (c : Cfg) (r : Rx) : (r.refuse c).panel.standing = .abandoned := rfl

@[simp] theorem undefine_standing (c : Cfg) (r : Rx) :
    (r.undefine c).panel.standing = r.panel.standing.lost := rfl

/-- A panel that is not in a reset and whose fields are known takes the byte. -/
theorem listening_hears (w : Wires) (f : Rx → Rx) (r : Rx) (hk : r.panel.standing.known = true)
    (hd : duringReset w r = false) : listening w f r = f r := by
  simp [listening, hk, hd]

theorem listening_lost (w : Wires) (f : Rx → Rx) (r : Rx) (hk : r.panel.standing.known = false) :
    listening w f r = r.redraw w.cfg := by
  simp [listening, hk]

/-- What delivery reads of its surroundings: the parameters and the RES line. -/
structure SameBoard (w w' : Wires) : Prop where
  cfg : w'.cfg = w.cfg
  par : w'.par = w.par
  lineRes : w'.lineRes = w.lineRes

theorem deliver_congr {w w' : Wires} (h : SameBoard w w') (k : Kind) (b : Byte) (r : Rx) :
    deliver w' k b r = deliver w k b r := by
  cases w; cases w'
  obtain ⟨hc, hp, hl⟩ := h
  simp only at hc hp hl
  subst hc hp hl
  cases k <;> rfl

/-- A byte delivered to a panel that is lost draws its fields again. -/
theorem deliver_lost (w : Wires) (k : Kind) (b : Byte) (r : Rx) (hk : r.panel.standing.known = false) :
    deliver w k b r = r.redraw w.cfg := by
  cases k <;> simp [deliver, deliverCmd, deliverData, commandByte, listening, hk]

/-- A command byte to a panel that hears it (rules R241 to R248). -/
theorem deliverCmd_hears (w : Wires) (b : Byte) (r : Rx) (hk : r.panel.standing.known = true)
    (hd : duringReset w r = false) :
    deliverCmd w b r =
      if r.panel.cpend then r.onPanel fun p => (p.heard).setContrast b
      else commandEffect w b (r.onPanel Panel.heard) := by
  rw [deliverCmd, commandByte, listening_hears w _ r hk hd]
  rfl

/-- A data byte to a panel that hears it (rules R238, R240). -/
theorem deliverData_hears (w : Wires) (b : Byte) (r : Rx) (hk : r.panel.standing.known = true)
    (hd : duringReset w r = false) :
    deliverData w b r =
      if r.panel.cpend || outsideRam w r.panel then r.refuse w.cfg
      else storeData b (r.onPanel Panel.heard) := by
  rw [deliverData, listening_hears w _ r hk hd]
  rfl

/-- The frame handler's state set, unless the panel is lost. -/
def withFh (f : FhState) (r : Rx) : Rx :=
  if r.panel.standing.known then r.onPanel (Panel.setFh f) else r

theorem withFh_known (f : FhState) (r : Rx) (hk : r.panel.standing.known = true) :
    withFh f r = r.onPanel (Panel.setFh f) := by
  simp [withFh, hk]

theorem withFh_lost (f : FhState) (r : Rx) (hk : r.panel.standing.known = false) : withFh f r = r := by
  simp [withFh, hk]

/-- The frame handler's state is no part of delivery: it stays, unless the panel is lost by a refusal,
whose draw does not depend on it. -/
theorem deliver_setFh (w : Wires) (k : Kind) (b : Byte) (r : Rx) (f : FhState)
    (hk : r.panel.standing.known = true) (hd : duringReset w r = false) :
    deliver w k b (r.onPanel (Panel.setFh f)) = withFh f (deliver w k b r) := by
  cases k with
  | cmd =>
    simp only [deliver, deliverCmd_hears w b r hk hd, deliverCmd_hears w b (r.onPanel (Panel.setFh f)) hk hd]
    cases hc : r.panel.cpend with
    | true => simp [hc, withFh, Rx.onPanel, Panel.heard, Panel.setFh, Panel.setContrast, Standing.known]
    | false =>
      simp only [Rx.onPanel, Panel.setFh, hc, commandEffect]
      cases decodeCommand b with
      | none => simp [withFh, Rx.refuse, Rx.redraw, Rx.onPanel, Panel.heard, Standing.known]
      | some c =>
        cases c <;>
          simp [hc, withFh, Rx.onPanel, Panel.heard, Panel.setFh, Panel.setLowCol, Panel.setHighCol,
            Panel.awaitContrast, Panel.setNormInv, Panel.setDisp, Panel.setPage, Standing.known]
  | data =>
    simp only [deliver, deliverData_hears w b r hk hd, deliverData_hears w b (r.onPanel (Panel.setFh f)) hk hd]
    have ho : ((r.onPanel (Panel.setFh f)).panel.cpend || outsideRam w (r.onPanel (Panel.setFh f)).panel) =
        (r.panel.cpend || outsideRam w r.panel) := rfl
    simp only [ho]
    cases (r.panel.cpend || outsideRam w r.panel) <;>
      simp [withFh, Rx.refuse, Rx.redraw, Rx.onPanel, Panel.heard, Panel.setFh, storeData, Panel.colAtEnd,
        Standing.known]

/-- Delivery starts no reset. -/
theorem deliver_phase (w : Wires) (k : Kind) (b : Byte) (r : Rx) :
    (deliver w k b r).panel.phase = r.panel.phase := by
  cases k with
  | cmd =>
    simp only [deliver, deliverCmd, commandByte, listening]
    split
    · split
      · rfl
      · simp only [commandEffect]
        split
        · rfl
        · cases decodeCommand b with
          | none => rfl
          | some c => cases c <;> rfl
    · rfl
  | data =>
    simp only [deliver, deliverData, listening]
    split
    · split
      · rfl
      · split <;> rfl
    · rfl

theorem deliver_during (w : Wires) (k : Kind) (b : Byte) (r : Rx) :
    duringReset w (deliver w k b r) = duringReset w r := by
  simp [duringReset, deliver_phase]

/-- Delivery makes no panel undefined: a refusal abandons it. -/
theorem listening_ne (w : Wires) (f : Rx → Rx) (r : Rx) (hr : r.panel.standing ≠ .undefined)
    (hf : (f r).panel.standing ≠ .undefined) : (listening w f r).panel.standing ≠ .undefined := by
  unfold listening
  split
  · split
    · simp
    · exact hf
  · simpa using hr

theorem deliver_ne (w : Wires) (k : Kind) (b : Byte) (r : Rx) (hr : r.panel.standing ≠ .undefined) :
    (deliver w k b r).panel.standing ≠ .undefined := by
  cases k with
  | cmd =>
    apply listening_ne w _ r hr
    simp only [commandEffect]
    split
    · simp [Rx.onPanel, Panel.heard, Panel.setContrast]
    · cases decodeCommand b with
      | none => simp
      | some c =>
        cases c <;> simp [Rx.onPanel, Panel.heard, Panel.setLowCol, Panel.setHighCol, Panel.awaitContrast,
          Panel.setNormInv, Panel.setDisp, Panel.setPage]
  | data =>
    apply listening_ne w _ r hr
    dsimp only
    split
    · simp
    · simp [storeData, Rx.onPanel, Panel.heard]

/-- The panel's side at the end of a transfer: on I2C the stop condition drops the frame handler's state
(rule R234). -/
def settledRx (c : Cfg) (r : Rx) : Rx :=
  match c.bus with
  | .i2c => i2cStop r
  | .spi => r

theorem known_ne {s : Standing} (h : s.known = true) : s ≠ .undefined := by
  rintro rfl
  cases h

theorem known_ne_abandoned {s : Standing} (h : s.known = true) : s ≠ .abandoned := by
  rintro rfl; cases h

/-- A panel that the rules do not know is undefined or no longer modelled. -/
theorem abandoned_of_lost {s : Standing} (h : s.known = false) (hu : s ≠ .undefined) : s = .abandoned := by
  cases s <;> simp_all [Standing.known]

theorem known_eq {s : Standing} (h : ¬ s.known = true) : s.known = false := by
  cases s <;> simp_all [Standing.known]

theorem controlByte_stream_data (w : Wires) (r : Rx) (hk : r.panel.standing.known = true)
    (hd : duringReset w r = false) :
    controlByte w ctlDataStreamByte r = r.onPanel (Panel.setFh (.stream .data)) := by
  rw [controlByte, listening_hears w _ r hk hd]
  rfl

theorem controlByte_one_cmd (w : Wires) (r : Rx) (hk : r.panel.standing.known = true)
    (hd : duringReset w r = false) :
    controlByte w ctlOneCmdByte r = r.onPanel (Panel.setFh (.one .cmd)) := by
  rw [controlByte, listening_hears w _ r hk hd]
  rfl

theorem i2cStart_selected (w : Wires) (a : Byte) (r : Rx) (hb : w.cfg.bus = .i2c)
    (hs : selectsPanel w a = true) (hk : r.panel.standing.known = true) (hd : duringReset w r = false) :
    i2cStart w a r = r.onPanel (Panel.setFh .ctrl) := by
  simp [i2cStart, hb, hs, known_ne_abandoned hk, listening_hears w _ r hk hd]

/-- In a transaction for another device a byte changes nothing (rule R235). -/
theorem i2cByte_dropped (w : Wires) (r : Rx) (b : Byte) (ha : r.panel.standing ≠ .abandoned)
    (hf : r.panel.fh = .dropped) : i2cByte w r b = r := by
  simp [i2cByte, ha, hf]

/-- A panel no longer modelled is drawn by any byte (rule R280). -/
theorem i2cByte_abandoned (w : Wires) (r : Rx) (b : Byte) (ha : r.panel.standing = .abandoned) :
    i2cByte w r b = r.redraw w.cfg := by
  simp [i2cByte, ha]

theorem i2cStop_withFh (f : FhState) (r : Rx) : i2cStop (withFh f r) = i2cStop r := by
  unfold withFh i2cStop
  by_cases hk : r.panel.standing.known = true
  · simp [hk, Panel.setFh, Rx.onPanel]
  · simp [hk]

/-- `[A, 0x80, c]` delivers `(CMD, c)` (rule R233). -/
theorem i2cTransaction_cmd (w : Wires) (a c : Byte) (r : Rx) (hb : w.cfg.bus = .i2c)
    (hs : selectsPanel w a = true) (hk : r.panel.standing.known = true) (hd : duringReset w r = false) :
    i2cTransaction w [a, ctlOneCmdByte, c] r = i2cStop (deliverCmd w c r) := by
  have h1 : i2cStart w a r = r.onPanel (Panel.setFh .ctrl) := i2cStart_selected w a r hb hs hk hd
  have h2 : i2cByte w (r.onPanel (Panel.setFh .ctrl)) ctlOneCmdByte = r.onPanel (Panel.setFh (.one .cmd)) := by
    simp only [i2cByte, onPanel_panel, Panel.setFh, known_ne_abandoned hk, if_false]
    exact controlByte_one_cmd w _ hk hd
  have h3 : i2cByte w (r.onPanel (Panel.setFh (.one .cmd))) c = payloadOne w .cmd c (r.onPanel (Panel.setFh (.one .cmd))) := by
    simp only [i2cByte, onPanel_panel, Panel.setFh, known_ne_abandoned hk, if_false]
  have h4 : payloadOne w .cmd c (r.onPanel (Panel.setFh (.one .cmd))) =
      withFh .ctrl (withFh (.one .cmd) (deliverCmd w c r)) := by
    rw [payloadOne, deliver_setFh w .cmd c r _ hk hd]
    rfl
  simp only [i2cTransaction, List.foldl_cons, List.foldl_nil, h1, h2, h3, h4, i2cStop_withFh]

/-- The bytes of a data block, delivered in order. -/
def deliverAll (w : Wires) (l : List Byte) (r : Rx) : Rx := l.foldl (fun r b => deliverData w b r) r

theorem stream_data (w : Wires) (l : List Byte) (r : Rx) (hd : duringReset w r = false)
    (hu : r.panel.standing ≠ .undefined) :
    l.foldl (i2cByte w) (withFh (.stream .data) r) = withFh (.stream .data) (deliverAll w l r) := by
  induction l generalizing r with
  | nil => rfl
  | cons b l ih =>
    simp only [List.foldl_cons, deliverAll]
    rw [show i2cByte w (withFh (.stream .data) r) b = withFh (.stream .data) (deliverData w b r) from ?_]
    · exact ih _ (by rw [← hd]; exact deliver_during w .data b r) (deliver_ne w .data b r hu)
    · by_cases hk : r.panel.standing.known = true
      · have h := deliver_setFh w .data b r (.stream .data) hk hd
        simp only [deliver] at h
        rw [withFh_known _ _ hk, ← h]
        simp [i2cByte, Panel.setFh, known_ne_abandoned hk, deliver]
      · have h := deliver_lost w .data b r (known_eq hk)
        simp only [deliver] at h
        rw [h, withFh_lost _ _ (known_eq hk), withFh_lost _ (r.redraw w.cfg) (known_eq hk)]
        exact i2cByte_abandoned w r b (abandoned_of_lost (known_eq hk) hu)

/-- `[A, 0x40] ++ l` delivers `(DATA, l[0]), (DATA, l[1]), ...` (rule R233). -/
theorem i2cTransaction_data (w : Wires) (a : Byte) (l : List Byte) (r : Rx) (hb : w.cfg.bus = .i2c)
    (hs : selectsPanel w a = true) (hk : r.panel.standing.known = true) (hd : duringReset w r = false) :
    i2cTransaction w ([a, ctlDataStreamByte] ++ l) r = i2cStop (deliverAll w l r) := by
  have h1 : i2cStart w a r = r.onPanel (Panel.setFh .ctrl) := i2cStart_selected w a r hb hs hk hd
  have h2 : i2cByte w (r.onPanel (Panel.setFh .ctrl)) ctlDataStreamByte = withFh (.stream .data) r := by
    simp only [i2cByte, onPanel_panel, Panel.setFh, hk, known_ne_abandoned hk, if_true, if_false, withFh]
    exact controlByte_stream_data w _ hk hd
  simp only [i2cTransaction, List.cons_append, List.nil_append, List.foldl_cons, h1, h2]
  rw [stream_data w l r hd (known_ne hk), i2cStop_withFh]

/-- An SPI transfer with CS low and D/C low delivers its bytes as commands (rule R236). -/
theorem spiByte_cmd (w : Wires) (c : Byte) (r : Rx) (hcs : w.cfg.hasCs = true → w.lineCs = .lo)
    (hdc : w.lineDc = .lo) (hg : rxGarbled w = false) : spiByte w r c = deliverCmd w c r := by
  have : (w.cfg.hasCs && w.lineCs != .lo) = false := by
    cases h : w.cfg.hasCs with
    | false => rfl
    | true => simp [hcs h]
  simp [spiByte, this, hdc, rxByte, rxDrawn, hg]

/-- An SPI transfer with CS low and D/C high delivers its bytes as data (rule R236). -/
theorem spiTransfer_data (w : Wires) (l : List Byte) (r : Rx) (hcs : w.cfg.hasCs = true → w.lineCs = .lo)
    (hdc : w.lineDc = .hi) (hg : rxGarbled w = false) : spiTransfer w l r = deliverAll w l r := by
  have hcs' : (w.cfg.hasCs && w.lineCs != .lo) = false := by
    cases h : w.cfg.hasCs with
    | false => rfl
    | true => simp [hcs h]
  simp only [spiTransfer, deliverAll]
  congr 1
  funext r b
  simp [spiByte, hcs', hdc, rxByte, rxDrawn, hg]

theorem deliverAll_congr {w w' : Wires} (h : SameBoard w w') (l : List Byte) (r : Rx) :
    deliverAll w' l r = deliverAll w l r := by
  unfold deliverAll
  congr 1
  funext r b
  exact deliver_congr h .data b r

/-! ## Transport calls -/

/-- Rule R191 does not make this operation's bus actions undefine the panel. -/
def supported (s : State) : Prop := isDeviceOp (curOp s) = true → s.initDone = true

theorem supported_of_frame {s t : State} (h : BusFrame s t) (hs : supported s) : supported t := by
  unfold supported curOp at *
  rw [h.cur, h.initDone]
  exact hs

theorem unsupported_eq (s : State) (hs : supported s) (hk : s.panel.standing ≠ .undefined) :
    unsupported s = false := by
  unfold unsupported
  cases hop : isDeviceOp (curOp s) with
  | true => simp [hs hop, hk]
  | false => simp [hk]

theorem nextAnswer_ok {s : State} {n : Nat} (h : s.answersOk (n + 1)) : (takeAnswer s).draws = s.draws := by
  unfold takeAnswer
  unfold State.answersOk at h
  cases hs : s.answers with
  | nil => simp [hs] at h
  | cons r l => rfl

/-- One command or data call on I2C is one transaction. -/
theorem succeedAll_i2c (s : State) (l : List Byte) (hs : supported s)
    (hk : s.panel.standing.known = true) (ha : s.answersOk 1) :
    (succeedAll [.i2cTxn l] s).rx = i2cTransaction s.wires l s.rx ∧
      (succeedAll [.i2cTxn l] s).wires = s.wires := by
  have hd := nextAnswer_ok ha
  have hf := takeAnswer_frame s
  have hp : (takeAnswer s).panel = s.panel := by simp
  have hr : (takeAnswer s).rx = s.rx := by simp [State.rx, hd]
  have hw : (takeAnswer s).wires = s.wires := by simp [State.wires]
  have ht : supported (takeAnswer s) := supported_of_frame hf hs
  have hu : unsupported (emit (.i2cTxn l) (takeAnswer s)) = false :=
    unsupported_eq _ ht (by simpa using known_ne hk)
  have hpr : panelRx (.i2cTxn l) (emit (.i2cTxn l) (takeAnswer s)) = i2cTransaction s.wires l s.rx := by
    unfold panelRx
    rw [hu, ← hr, ← hw]
    rfl
  constructor
  · simp [succeedAll, succeed, BusAction.fallible, perform, panelReceives, blockDrives, hpr]
  · simp [succeedAll, succeed, BusAction.fallible, perform, panelReceives, blockDrives, ← hw]
    rfl

/-- What the block's lines and bus mode are during an SPI transfer with D/C at `dc`. -/
def spiWires (dc : Level) (w : Wires) : Wires :=
  { w with
    lineDc := dc
    lineCs := if w.cfg.hasCs then .lo else w.lineCs
    spiMode := blockMode w.cfg }

/-- The lines and the bus mode after it. -/
def spiWiresAfter (dc : Level) (w : Wires) : Wires :=
  { w with
    lineDc := dc
    lineCs := if w.cfg.hasCs then .hi else w.lineCs
    spiMode := blockMode w.cfg }

theorem perform_rx (a : BusAction) (s : State) : (perform a s).rx = panelRx a (blockDrives a (emit a s)) := rfl

theorem perform_wires (a : BusAction) (s : State) : (perform a s).wires = (blockDrives a s).wires := by
  cases a with
  | pin line lv => cases line <;> rfl
  | wait ms => rfl
  | i2cTxn l => rfl
  | spiCfg m => rfl
  | spiXfer l => rfl

/-- The actions that the panel takes no notice of. -/
def Quiet (a : BusAction) : Prop := (∃ m, a = .spiCfg m) ∨ (∃ lv, a = .pin .dc lv) ∨ ∃ lv, a = .pin .cs lv

theorem quiet_spiCfg (m : SpiMode) : Quiet (.spiCfg m) := .inl ⟨m, rfl⟩

theorem quiet_dc (lv : Bool) : Quiet (.pin .dc lv) := .inr (.inl ⟨lv, rfl⟩)

theorem quiet_cs (lv : Bool) : Quiet (.pin .cs lv) := .inr (.inr ⟨lv, rfl⟩)

/-- A bus action that the panel takes no notice of. -/
theorem perform_quiet (a : BusAction) (s : State) (hs : supported s) (hk : s.panel.standing ≠ .undefined)
    (hq : Quiet a) : (perform a s).rx = s.rx := by
  have hu : unsupported (blockDrives a (emit a s)) = false := by
    apply unsupported_eq
    · rcases hq with ⟨m, rfl⟩ | ⟨lv, rfl⟩ | ⟨lv, rfl⟩ <;> exact hs
    · rcases hq with ⟨m, rfl⟩ | ⟨lv, rfl⟩ | ⟨lv, rfl⟩ <;> exact hk
  rw [perform_rx]
  unfold panelRx
  rw [hu]
  rcases hq with ⟨m, rfl⟩ | ⟨lv, rfl⟩ | ⟨lv, rfl⟩ <;> rfl

theorem succeed_supported (a : BusAction) (s : State) (hs : supported s) : supported (succeed s a) := by
  unfold supported curOp
  rw [(succeed_frame a s).cur, (succeed_frame a s).initDone]
  exact hs

/-- A bus action that succeeds and that the panel takes no notice of. -/
theorem succeed_quiet (a : BusAction) (s : State) (hs : supported s) (hk : s.panel.standing ≠ .undefined)
    (hq : Quiet a) (ha : a.fallible = true → s.answersOk 1) : (succeed s a).rx = s.rx := by
  unfold succeed
  split
  · rename_i hf
    refine (perform_quiet a (takeAnswer s) (supported_of_frame (takeAnswer_frame s) hs) (by simpa using hk)
      hq).trans ?_
    simp [State.rx, nextAnswer_ok (ha hf)]
  · exact perform_quiet a s hs hk hq

/-- What a bus action makes of the lines and the bus mode. -/
def blockWires (a : BusAction) (w : Wires) : Wires :=
  match a with
  | .pin .res lv => { w with lineRes := levelOf lv }
  | .pin .dc lv => { w with lineDc := levelOf lv }
  | .pin .cs lv => { w with lineCs := levelOf lv }
  | .wait _ => w
  | .i2cTxn _ => w
  | .spiCfg m => { w with spiMode := m }
  | .spiXfer _ => w

theorem blockDrives_wires (a : BusAction) (s : State) : (blockDrives a s).wires = blockWires a s.wires := by
  cases a with
  | pin line lv => cases line <;> rfl
  | wait ms => rfl
  | i2cTxn l => rfl
  | spiCfg m => rfl
  | spiXfer l => rfl

theorem succeed_wires (a : BusAction) (s : State) : (succeed s a).wires = blockWires a s.wires := by
  unfold succeed
  split
  · rw [perform_wires, blockDrives_wires]
    simp [State.wires]
  · rw [perform_wires, blockDrives_wires]

/-- An SPI transfer that succeeds. -/
theorem succeed_xfer (l : List Byte) (s : State) (hs : supported s) (hk : s.panel.standing ≠ .undefined)
    (ha : s.answersOk 1) : (succeed s (.spiXfer l)).rx = spiTransfer s.wires l s.rx := by
  have hd := nextAnswer_ok ha
  have ht : supported (takeAnswer s) := supported_of_frame (takeAnswer_frame s) hs
  have hu : unsupported (emit (.spiXfer l) (takeAnswer s)) = false :=
    unsupported_eq _ ht (by simpa using hk)
  have hr : (takeAnswer s).rx = s.rx := by simp [State.rx, hd]
  have hw : (takeAnswer s).wires = s.wires := by simp [State.wires]
  simp only [succeed, BusAction.fallible, if_true, perform_rx, blockDrives]
  unfold panelRx
  rw [hu, ← hr, ← hw]
  rfl

theorem answersOk_tail {s t : State} {n : Nat} (h : s.answersOk (n + 1)) (ht : t.answers = s.answers.drop 1) :
    t.answersOk n := by
  unfold State.answersOk
  rw [ht, List.drop_one]
  exact (answersOk_succ h).2

theorem spiTransfer_ne (w : Wires) (l : List Byte) (r : Rx) (hr : r.panel.standing ≠ .undefined) :
    (spiTransfer w l r).panel.standing ≠ .undefined := by
  induction l generalizing r with
  | nil => exact hr
  | cons b l ih =>
    refine ih _ ?_
    have hd : (rxDrawn w r).panel.standing ≠ .undefined := by unfold rxDrawn; split <;> exact hr
    unfold spiByte
    split
    · exact hr
    · cases w.lineDc with
      | lo => exact deliver_ne w .cmd _ _ hd
      | hi => exact deliver_ne w .data _ _ hd
      | x => exact listening_ne w _ _ hd (by simp)

/-- The SPI actions of one command or data call (rules R151 to R154). -/
theorem succeedAll_spi (s : State) (dc : Bool) (l : List Byte) (hs : supported s)
    (hk : s.panel.standing ≠ .undefined) (ha : s.answersOk 2) :
    (succeedAll (spiActions s.cfg dc l) s).rx = spiTransfer (spiWires (levelOf dc) s.wires) l s.rx ∧
      (succeedAll (spiActions s.cfg dc l) s).wires = spiWiresAfter (levelOf dc) s.wires := by
  -- what a quiet action keeps
  have q (a : BusAction) (n : Nat) (t : State) (ht : t.rx = s.rx ∧ supported t ∧ t.answersOk n)
      (hq : Quiet a) (hf : a.fallible = false) :
      (succeed t a).rx = s.rx ∧ supported (succeed t a) ∧ (succeed t a).answersOk n := by
    obtain ⟨h1, h2, h3⟩ := ht
    have hp : t.panel = s.panel := congrArg Rx.panel h1
    refine ⟨(succeed_quiet a t h2 (by rw [hp]; exact hk) hq (by simp [hf])).trans h1,
      succeed_supported a t h2, ?_⟩
    unfold State.answersOk at h3 ⊢
    simpa [succeed_answers, hf] using h3
  have h1 : (succeed s (.spiCfg (blockMode s.cfg))).rx = s.rx ∧
      supported (succeed s (.spiCfg (blockMode s.cfg))) ∧
      (succeed s (.spiCfg (blockMode s.cfg))).answersOk 1 :=
    ⟨succeed_quiet _ s hs hk (quiet_spiCfg _) fun _ => (answersOk_add (m := 1) (n := 1) ha).1,
      succeed_supported _ s hs, answersOk_tail ha (by simp [succeed_answers, BusAction.fallible])⟩
  have x (t : State) (ht : t.rx = s.rx ∧ supported t ∧ t.answersOk 1) :
      (succeed t (.spiXfer l)).rx = spiTransfer t.wires l s.rx := by
    obtain ⟨h1, h2, h3⟩ := ht
    have hp : t.panel = s.panel := congrArg Rx.panel h1
    rw [succeed_xfer l t h2 (by rw [hp]; exact hk) h3, h1]
  unfold spiActions
  cases hc : s.cfg.hasCs with
  | false =>
    have hw : s.wires.cfg.hasCs = false := hc
    have h2 := q _ 1 _ h1 (quiet_dc dc) rfl
    simp only [Bool.false_eq_true, if_false, succeedAll, List.foldl_cons, List.foldl_nil]
    constructor
    · rw [x _ h2]
      simp only [succeed_wires, blockWires, spiWires, hw]
      rfl
    · simp only [succeed_wires, blockWires, spiWiresAfter, hw]
      rfl
  | true =>
    have hw : s.wires.cfg.hasCs = true := hc
    have h4 := q _ 1 _ (q _ 1 _ (q _ 1 _ h1 (quiet_cs true) rfl) (quiet_dc dc) rfl) (quiet_cs false) rfl
    simp only [if_true, succeedAll, List.foldl_cons, List.foldl_nil]
    constructor
    · rw [succeed_quiet _ _ (succeed_supported _ _ h4.2.1) ?_ (quiet_cs true) (by simp [BusAction.fallible])]
      · rw [x _ h4]
        simp only [succeed_wires, blockWires, spiWires, hw, levelOf]
        rfl
      · have h := congrArg (fun r => r.panel.standing) (x _ h4)
        exact h.trans_ne (spiTransfer_ne _ l s.rx hk)
    · simp only [succeed_wires, blockWires, spiWiresAfter, hw, levelOf]
      rfl

/-! ## Command and data calls to a panel that listens -/

/-- The lines and the bus mode after a command or data call with D/C at `dc`. -/
def wiresAfter (dc : Level) (w : Wires) : Wires :=
  match w.cfg.bus with
  | .i2c => w
  | .spi => spiWiresAfter dc w

theorem wiresAfter_board (dc : Level) (w : Wires) : SameBoard w (wiresAfter dc w) := by
  unfold wiresAfter
  split <;> constructor <;> rfl

theorem runCall_rx (s : State) (call : TransportCall) :
    (runCall s call).rx = (succeedAll (expansion s call) (internalEffect s call)).rx := rfl

theorem runCall_wires (s : State) (call : TransportCall) :
    (runCall s call).wires = (succeedAll (expansion s call) (internalEffect s call)).wires := rfl

theorem spi_ungarbled (s : State) (dc : Level) (hb : s.cfg.bus = .spi) (hw : s.wired) :
    rxGarbled (spiWires dc s.wires) = false := by
  unfold State.wired at hw
  rw [hb] at hw
  have : ¬ s.par.panelMaxBaud < s.cfg.spiBaud := by omega
  simp [rxGarbled, spiWires, State.wires, this]

/-- CMD to a panel that listens, with no error (rules R143, R233, R236). -/
theorem runCall_cmd (s : State) (c : Byte) (hs : supported s) (hh : s.hears) (hw : s.wired)
    (ha : s.answersOk (callLoad s.cfg (.cmd c))) :
    (runCall s (.cmd c)).rx = settledRx s.cfg (deliverCmd s.wires c s.rx) ∧
      (runCall s (.cmd c)).wires = wiresAfter .lo s.wires := by
  rw [runCall_rx, runCall_wires]
  simp only [internalEffect, expansion, cmdActions]
  obtain ⟨hk, hd⟩ := hh
  cases hb : s.cfg.bus with
  | i2c =>
    have ha1 : s.answersOk 1 := by simpa [callLoad, hb] using ha
    have hsel : selectsPanel s.wires (cfgAddrByte s.cfg) = true := by
      unfold State.wired at hw; rw [hb] at hw; exact hw
    obtain ⟨h1, h2⟩ := succeedAll_i2c s [cfgAddrByte s.cfg, ctlOneCmdByte, c] hs hk ha1
    rw [h1, h2, i2cTransaction_cmd s.wires _ c s.rx hb hsel hk hd]
    simp [settledRx, hb, wiresAfter, State.wires]
  | spi =>
    have ha2 : s.answersOk 2 := by simpa [callLoad, hb] using ha
    obtain ⟨h1, h2⟩ := succeedAll_spi s false [c] hs (known_ne hk) ha2
    have hx : spiTransfer (spiWires (levelOf false) s.wires) [c] s.rx = deliverCmd s.wires c s.rx := by
      have := spiByte_cmd (spiWires .lo s.wires) c s.rx (fun h => if_pos h) rfl
        (spi_ungarbled s _ hb hw)
      simp only [spiTransfer, List.foldl_cons, List.foldl_nil, levelOf, Bool.false_eq_true, if_false]
      rw [this]
      exact deliver_congr (w := s.wires) (by constructor <;> rfl) .cmd c s.rx
    simp only [h1, h2, hx]
    constructor
    · simp [settledRx, hb]
    · unfold wiresAfter
      rw [show s.wires.cfg.bus = .spi from hb]
      rfl

/-- DATA to a panel that listens, with no error (rules R143, R233, R236). -/
theorem succeedAll_data (s : State) (l : List Byte) (hs : supported s) (hh : s.hears) (hw : s.wired)
    (ha : s.answersOk (callLoad s.cfg (.data l))) :
    (succeedAll (dataActions s.cfg l) s).rx = settledRx s.cfg (deliverAll s.wires l s.rx) ∧
      (succeedAll (dataActions s.cfg l) s).wires = wiresAfter .hi s.wires := by
  obtain ⟨hk, hd⟩ := hh
  unfold dataActions
  cases hb : s.cfg.bus with
  | i2c =>
    have ha1 : s.answersOk 1 := by simpa [callLoad, hb] using ha
    have hsel : selectsPanel s.wires (cfgAddrByte s.cfg) = true := by
      unfold State.wired at hw; rw [hb] at hw; exact hw
    obtain ⟨h1, h2⟩ := succeedAll_i2c s ([cfgAddrByte s.cfg, ctlDataStreamByte] ++ l) hs hk ha1
    rw [h1, h2, i2cTransaction_data s.wires _ l s.rx hb hsel hk hd]
    simp [settledRx, hb, wiresAfter, State.wires]
  | spi =>
    have ha2 : s.answersOk 2 := by simpa [callLoad, hb] using ha
    obtain ⟨h1, h2⟩ := succeedAll_spi s true l hs (known_ne hk) ha2
    have hx : spiTransfer (spiWires (levelOf true) s.wires) l s.rx = deliverAll s.wires l s.rx := by
      have := spiTransfer_data (spiWires .hi s.wires) l s.rx (fun h => if_pos h) rfl
        (spi_ungarbled s _ hb hw)
      simp only [levelOf, if_true]
      rw [this]
      exact deliverAll_congr (w := s.wires) (by constructor <;> rfl) l s.rx
    simp only [h1, h2, hx]
    constructor
    · simp [settledRx, hb]
    · unfold wiresAfter
      rw [show s.wires.cfg.bus = .spi from hb]
      rfl

theorem runCall_data (s : State) (l : List Byte) (hs : supported s) (hh : s.hears) (hw : s.wired)
    (ha : s.answersOk (callLoad s.cfg (.data l))) :
    (runCall s (.data l)).rx = settledRx s.cfg (deliverAll s.wires l s.rx) ∧
      (runCall s (.data l)).wires = wiresAfter .hi s.wires := succeedAll_data s l hs hh hw ha

theorem runCall_dataFb (s : State) (p : Nat) (hs : supported s) (hh : s.hears) (hw : s.wired)
    (ha : s.answersOk (callLoad s.cfg (.dataFb p))) :
    (runCall s (.dataFb p)).rx = settledRx s.cfg (deliverAll s.wires (pageBytes s p) s.rx) ∧
      (runCall s (.dataFb p)).wires = wiresAfter .hi s.wires :=
  succeedAll_data s (pageBytes s p) hs hh hw ha

end Sys2Proof.Machine
end

