-- ==== Sys2Proof/Laws/Operation.lean ====
section
/-! SUPPORT. A whole host operation that meets no error: what it leaves in the sequencer, the status, the
wire trace, the framebuffer and the lines (rules R120, R143, R271). -/

namespace Sys2Proof.Machine

/-- An accepted operation that meets no error. -/
theorem hostOp_ok (w : HopWord) (calls : List TransportCall) (reject : Bool) (s : State) (ha : s.accepts)
    (hr : reject = false) (hok : s.answersOk (busLoad s.cfg calls)) :
    hostOp w calls reject id s = .next (complete (runCalls calls (beginOp w calls s))) := by
  obtain ⟨hb, hd⟩ := ha
  unfold hostOp
  rw [if_neg (by simp [hb]), if_neg (by simp [hd, hr]), id,
    runToIdle_ok (beginOp w calls s) rfl rfl rfl (by simpa [beginOp, State.answersOk] using hok)]
  rfl

/-- A refused operation. -/
theorem hostOp_refused (w : HopWord) (calls : List TransportCall) (reject : Bool) (start : State → State)
    (s : State) (hb : s.busy = false) (hr : s.dead = true ∨ reject = true) :
    hostOp w calls reject start s = .next { s with refused := true } := by
  unfold hostOp
  rw [if_neg (by simp [hb]), if_pos (by rcases hr with h | h <;> simp [h])]
  rfl

/-- A call that leaves the framebuffer and `HRES` as they were. -/
def noFb : TransportCall → Bool
  | .cmd _ => true
  | .data _ => true
  | .dataFb _ => true
  | .res _ => true
  | .wait _ => true
  | .fillFb _ => false
  | .fbw _ _ => false
  | .fbr _ => false

theorem runCall_fb (s : State) (call : TransportCall) (h : noFb call = true) :
    (runCall s call).fb = s.fb ∧ (runCall s call).hres = s.hres := by
  have hi : internalEffect s call = s := by cases call <;> first | rfl | cases h
  have hf := succeedAll_frame (expansion s call) s
  simp only [runCall, hi]
  exact ⟨hf.fb, hf.hres⟩

theorem runCalls_fb (calls : List TransportCall) (s : State) (h : ∀ c ∈ calls, noFb c = true) :
    (runCalls calls s).fb = s.fb ∧ (runCalls calls s).hres = s.hres := by
  induction calls generalizing s with
  | nil => exact ⟨rfl, rfl⟩
  | cons c calls ih =>
    obtain ⟨h1, h2⟩ := runCall_fb s c (h c (by simp))
    obtain ⟨h3, h4⟩ := ih (runCall s c) fun d hd => h d (by simp [hd])
    exact ⟨h3.trans h1, h4.trans h2⟩

theorem wireOf_congr {s t : State} (hc : t.cfg = s.cfg) (hf : t.fb = s.fb) (calls : List TransportCall) :
    wireOf t calls = wireOf s calls := by
  unfold wireOf
  congr 1
  funext call
  exact expansion_congr hc hf call

theorem runCalls_trace (calls : List TransportCall) (s : State) (h : ∀ c ∈ calls, noFb c = true) :
    (runCalls calls s).trace = s.trace ++ wireOf s calls := by
  induction calls generalizing s with
  | nil => simp [runCalls, wireOf]
  | cons c calls ih =>
    have h' := ih (runCall s c) fun d hd => h d (by simp [hd])
    rw [wireOf_congr (runCall_frame s c).cfg (runCall_fb s c (h c (by simp))).1, runCall_trace] at h'
    simpa [runCalls, wireOf] using h'

theorem runCalls_answers (calls : List TransportCall) (s : State) :
    (runCalls calls s).answers = s.answers.drop (busLoad s.cfg calls) := by
  induction calls generalizing s with
  | nil => simp [runCalls, busLoad]
  | cons c calls ih =>
    have h' := ih (runCall s c)
    rw [(runCall_frame s c).cfg, runCall_answers, fallibleCount_expansion, List.drop_drop] at h'
    rw [busLoad_cons]
    exact h'

theorem runCalls_bpc (calls : List TransportCall) (s : State) (h : s.bpc = 0) : (runCalls calls s).bpc = 0 := by
  induction calls generalizing s with
  | nil => exact h
  | cons c calls ih => exact ih (runCall s c) rfl

/-- The sequencer and the status after an operation that met no error. -/
theorem endedOk_complete (w : HopWord) (calls : List TransportCall) (s : State) :
    endedOk w calls (complete (runCalls calls (beginOp w calls s))) := by
  have hf := runCalls_frame calls (beginOp w calls s)
  refine ⟨rfl, hf.cur, hf.tcl, ?_, runCalls_bpc calls _ rfl, ?_⟩
  · simpa [complete, beginOp] using runCalls_tpc calls (beginOp w calls s)
  · have h (op : Byte) : mkHstat kindOk 0 op 0 = 0#16 ++ (op ++ 0#8) := by
      revert op
      decide
    simp only [complete, curOp, hf.cur, h]
    rfl

theorem sameHost_complete (w : HopWord) (calls : List TransportCall) (s : State) :
    sameHost s (complete (runCalls calls (beginOp w calls s))) := by
  have hf := runCalls_frame calls (beginOp w calls s)
  exact ⟨hf.hop, hf.hopWritten, hf.haddr, hf.hdata, hf.cfg, hf.par, hf.dead, hf.inputs⟩

/-- An operation without FB access that met no error. -/
theorem completesAs_complete (w : HopWord) (calls : List TransportCall) (s : State)
    (h : ∀ c ∈ calls, noFb c = true) :
    completesAs w calls s (complete (runCalls calls (beginOp w calls s))) :=
  ⟨endedOk_complete w calls s, sameHost_complete w calls s, runCalls_trace calls (beginOp w calls s) h,
    runCalls_answers calls (beginOp w calls s), (runCalls_fb calls (beginOp w calls s) h).1,
    (runCalls_fb calls (beginOp w calls s) h).2⟩

/-! ## Lines -/

theorem succeedAll_wires (acts : List BusAction) (s : State) :
    (succeedAll acts s).wires = acts.foldl (fun w a => blockWires a w) s.wires := by
  induction acts generalizing s with
  | nil => rfl
  | cons a acts ih =>
    simp only [succeedAll, List.foldl_cons] at ih ⊢
    rw [ih, succeed_wires]

/-- The lines and the bus mode after a command or data call, whatever the panel does with it. -/
theorem wires_send (s : State) (call : TransportCall) (dc : Level)
    (h : (dc = .lo ∧ ∃ c, call = .cmd c) ∨ (dc = .hi ∧ ((∃ l, call = .data l) ∨ ∃ p, call = .dataFb p))) :
    (runCall s call).wires = wiresAfter dc s.wires := by
  have key : ∀ (b : Bool) (l : List Byte), (succeedAll (spiActions s.cfg b l) s).wires =
      spiWiresAfter (levelOf b) s.wires := by
    intro b l
    rw [succeedAll_wires]
    unfold spiActions spiWiresAfter
    have hw : s.wires.cfg.hasCs = s.cfg.hasCs := rfl
    rw [hw]
    cases s.cfg.hasCs <;> rfl
  have hw : s.wires.cfg.bus = s.cfg.bus := rfl
  rw [runCall_wires]
  unfold wiresAfter
  rw [hw]
  rcases h with ⟨rfl, c, rfl⟩ | ⟨rfl, ⟨l, rfl⟩ | ⟨p, rfl⟩⟩
  · simp only [internalEffect, expansion, cmdActions]
    cases s.cfg.bus with
    | i2c => exact succeedAll_wires _ s
    | spi => exact key false [c]
  · simp only [internalEffect, expansion, dataActions]
    cases s.cfg.bus with
    | i2c => exact succeedAll_wires _ s
    | spi => exact key true l
  · simp only [internalEffect, expansion, dataActions]
    cases s.cfg.bus with
    | i2c => exact succeedAll_wires _ s
    | spi => exact key true (pageBytes s p)

/-- The lines after a state whose wires are those of a call with D/C at `dc`. -/
theorem linesAfter_of (dc : Level) (s t : State) (h : t.wires = wiresAfter dc s.wires) : linesAfter dc s t := by
  have hw : s.wires.cfg.bus = s.cfg.bus := rfl
  unfold wiresAfter at h
  rw [hw] at h
  unfold linesAfter
  revert h
  cases s.cfg.bus with
  | i2c =>
    intro h
    exact ⟨congrArg Wires.lineRes h, congrArg Wires.lineDc h, congrArg Wires.lineCs h,
      congrArg Wires.spiMode h⟩
  | spi =>
    intro h
    exact ⟨congrArg Wires.lineRes h, congrArg Wires.lineDc h, congrArg Wires.lineCs h,
      congrArg Wires.spiMode h⟩

theorem wiresAfter_idem (dc dc' : Level) (w : Wires) :
    wiresAfter dc' (wiresAfter dc w) = wiresAfter dc' w := by
  unfold wiresAfter spiWiresAfter
  cases h : w.cfg.bus with
  | i2c => simp [h]
  | spi =>
    simp only [h]
    cases w.cfg.hasCs <;> rfl

end Sys2Proof.Machine
end

