-- ==== Sys2Proof/Laws/PerInstr.lean ====
section
/-! SUPPORT. One statement for every instruction: its encoding has the fixed bits that its row of the opcode
table gives (rules R93, R95, R99, R100). -/

namespace Sys2Proof.Laws.Encodes

/-- The fixed bits of a row: those of `mask`, at the values of `match`. -/
structure Row where
  mask : BitVec 16
  value : BitVec 16

/-- The rows of the opcode table, as it gives them. -/
def row : Instr → Row
  | .reset => ⟨0xFFFF, 0x0100⟩
  | .poweron => ⟨0xFFFF, 0x0200⟩
  | .poweroff => ⟨0xFFFF, 0x0300⟩
  | .sleep _ => ⟨0xFF00, 0x0400⟩
  | .contrast _ => ⟨0xFF00, 0x0500⟩
  | .invert _ => ⟨0xFFFE, 0x0600⟩
  | .showPages => ⟨0xFFFF, 0x0700⟩
  | .init => ⟨0xFFFF, 0x0800⟩
  | .fill _ => ⟨0xFFFE, 0x0900⟩
  | .writeCmd _ => ⟨0xFF00, 0x0A00⟩
  | .writeData => ⟨0xFFFF, 0x0B00⟩
  | .fbWrite _ => ⟨0xFF00, 0x0C00⟩
  | .fbRead => ⟨0xFFFF, 0x0D00⟩
  | .setLowCol _ => ⟨0xF0, 0x00⟩
  | .setHighCol _ => ⟨0xF0, 0x10⟩
  | .setContrast _ => ⟨0xFF, 0x81⟩
  | .setNormInv _ => ⟨0xFE, 0xA6⟩
  | .setDisp _ => ⟨0xFE, 0xAE⟩
  | .setPage _ => ⟨0xF0, 0xB0⟩
  | .dataByte _ => ⟨0x00, 0x00⟩
  | .i2cAddress _ => ⟨0x01, 0x00⟩
  | .ctlOneCmd => ⟨0xFF, 0x80⟩
  | .ctlDataStream => ⟨0xFF, 0x40⟩
  | .ctlCmdStream => ⟨0xFF, 0x00⟩
  | .ctlOneData => ⟨0xFF, 0xC0⟩

/-- The bits that the row is about: the operation word, or the first byte on the wire. -/
def firstWord : Encoded → BitVec 16
  | .hop w => w
  | .wire _ [] => 0
  | .wire _ (b :: _) => b.setWidth 16

/-- A well-formed instruction's encoding has its row's fixed bits. -/
def Statement (i : Instr) : Prop :=
  WellFormed i = true → firstWord (encode i) &&& (row i).mask = (row i).value

theorem reset : Statement .reset := fun _ => by decide
theorem poweron : Statement .poweron := fun _ => by decide
theorem poweroff : Statement .poweroff := fun _ => by decide
theorem sleep (v : Byte) : Statement (.sleep v) := fun _ => by revert v; decide
theorem contrast (level : Byte) : Statement (.contrast level) := fun _ => by revert level; decide
theorem invert (flag : Byte) : Statement (.invert flag) := by
  unfold Statement; revert flag; decide
theorem showPages : Statement .showPages := fun _ => by decide
theorem init : Statement .init := fun _ => by decide
theorem fill (value : Byte) : Statement (.fill value) := by
  unfold Statement; revert value; decide
theorem writeCmd (c : Byte) : Statement (.writeCmd c) := fun _ => by revert c; decide
theorem writeData : Statement .writeData := fun _ => by decide
theorem fbWrite (v : Byte) : Statement (.fbWrite v) := fun _ => by revert v; decide
theorem fbRead : Statement .fbRead := fun _ => by decide
theorem setLowCol (lo : BitVec 4) : Statement (.setLowCol lo) := fun _ => by revert lo; decide
theorem setHighCol (hi : BitVec 4) : Statement (.setHighCol hi) := fun _ => by revert hi; decide
theorem setContrast (level : Byte) : Statement (.setContrast level) := fun _ => by revert level; decide
theorem setNormInv (flag : BitVec 1) : Statement (.setNormInv flag) := fun _ => by revert flag; decide
theorem setDisp (flag : BitVec 1) : Statement (.setDisp flag) := fun _ => by revert flag; decide
theorem setPage (p : BitVec 4) : Statement (.setPage p) := fun _ => by revert p; decide
theorem dataByte (d : Byte) : Statement (.dataByte d) := fun _ => by revert d; decide
theorem i2cAddress (a : BitVec 7) : Statement (.i2cAddress a) := fun _ => by revert a; decide
theorem ctlOneCmd : Statement .ctlOneCmd := fun _ => by decide
theorem ctlDataStream : Statement .ctlDataStream := fun _ => by decide
theorem ctlCmdStream : Statement .ctlCmdStream := fun _ => by decide
theorem ctlOneData : Statement .ctlOneData := fun _ => by decide

end Sys2Proof.Laws.Encodes
end

