-- ==== Sys2Proof/Tests/Slice0.lean ====
section
/-! SUPPORT. The model's own tests: the well-formedness checks, one written-out word for every constructor,
one-step vectors of 95_test_vectors.md, and for every statement with hypotheses a state that meets them. -/

namespace Sys2Proof.Tests

open Sys2Proof.Machine

/-! ## Well-formedness (rule R92) -/

theorem test_invert_three_is_ill_formed : WellFormed (.invert 3) = false := by decide

theorem test_fill_two_is_ill_formed : WellFormed (.fill 2) = false := by decide

theorem test_invert_one_is_well_formed : WellFormed (.invert 1) = true := by decide

/-! ## Decoding: every constructor's word written out from rules R93, R95, R99, R100 -/

theorem test_decode_reset : decodeHop 0b0000000100000000 = .ok .reset := by decide
theorem test_decode_poweron : decodeHop 0b0000001000000000 = .ok .poweron := by decide
theorem test_decode_poweroff : decodeHop 0b0000001100000000 = .ok .poweroff := by decide
theorem test_decode_sleep : decodeHop 0b0000010011111111 = .ok (.sleep 0xFF) := by decide
theorem test_decode_contrast : decodeHop 0b0000010101111111 = .ok (.contrast 0x7F) := by decide
theorem test_decode_invert : decodeHop 0b0000011000000001 = .ok (.invert 1) := by decide
theorem test_decode_show : decodeHop 0b0000011100000000 = .ok .showPages := by decide
theorem test_decode_init : decodeHop 0b0000100000000000 = .ok .init := by decide
theorem test_decode_fill : decodeHop 0b0000100100000001 = .ok (.fill 1) := by decide
theorem test_decode_writeCmd : decodeHop 0b0000101011100011 = .ok (.writeCmd 0xE3) := by decide
theorem test_decode_writeData : decodeHop 0b0000101100000000 = .ok .writeData := by decide
theorem test_decode_fbWrite : decodeHop 0b0000110010000001 = .ok (.fbWrite 0x81) := by decide
theorem test_decode_fbRead : decodeHop 0b0000110100000000 = .ok .fbRead := by decide
theorem test_decode_setLowCol : decode (.wire .cmd [0b00001111]) = .ok (.setLowCol 15) := by decide
theorem test_decode_setHighCol : decode (.wire .cmd [0b00011000]) = .ok (.setHighCol 8) := by decide
theorem test_decode_setContrast :
    decode (.wire .cmd [0b10000001, 0b10101111]) = .ok (.setContrast 0xAF) := by decide
theorem test_decode_setNormInv : decode (.wire .cmd [0b10100111]) = .ok (.setNormInv 1) := by decide
theorem test_decode_setDisp : decode (.wire .cmd [0b10101110]) = .ok (.setDisp 0) := by decide
theorem test_decode_setPage : decode (.wire .cmd [0b10110111]) = .ok (.setPage 7) := by decide
theorem test_decode_dataByte : decode (.wire .data [0b10000001]) = .ok (.dataByte 0x81) := by decide
theorem test_decode_i2cAddress : decode (.wire .addr [0b01111000]) = .ok (.i2cAddress 0x3C) := by decide
theorem test_decode_ctlOneCmd : decode (.wire .ctl [0b10000000]) = .ok .ctlOneCmd := by decide
theorem test_decode_ctlDataStream : decode (.wire .ctl [0b01000000]) = .ok .ctlDataStream := by decide
theorem test_decode_ctlCmdStream : decode (.wire .ctl [0b00000000]) = .ok .ctlCmdStream := by decide
theorem test_decode_ctlOneData : decode (.wire .ctl [0b11000000]) = .ok .ctlOneData := by decide

/-- Vectors E1 to E6, E12, E13. -/
theorem test_reserved_words :
    decodeHop 0x0000 = .error .reservedOpcode ∧ decodeHop 0x0E00 = .error .reservedOpcode ∧
      decodeHop 0xFF00 = .error .reservedOpcode ∧ decodeHop 0x0101 = .error .reservedImm ∧
      decodeHop 0x0902 = .error .reservedImm ∧ decodeHop 0x0603 = .error .reservedImm ∧
      decodeHop 0x0D01 = .error .reservedImm ∧ decodeHop 0x0B05 = .error .reservedImm := by decide

/-- The bytes of the last row of the panel decode table of L2.1. -/
theorem test_unmodelled_bytes :
    ([0x20, 0x80, 0x82, 0xA5, 0xA8, 0xAD, 0xC0, 0xFF] : List Byte).all
      (fun b => (decodeCommand b).isNone) = true := by decide

/-- A control byte with a reserved bit, an address byte in the read direction (vectors P5, P7). -/
theorem test_rejected_framing :
    decode (.wire .ctl [0x41]) = .error .reservedControl ∧
      decode (.wire .addr [0x79]) = .error .readDirection := by decide

/-- Table words of both lengths. -/
theorem test_decode_table_words :
    decodeTableWord 16 0x0601 = some (.invert 1) ∧ decodeTableWord 16 0x0603 = none ∧
      decodeTableWord 8 0x81 = some (.setContrast 0) ∧ decodeTableWord 8 0x40 = some .ctlDataStream ∧
      decodeTableWord 8 0x78 = some (.i2cAddress 0x3C) := by decide

/-! ## States for the tests -/

/-- A 2 x 16 display after INIT, on either bus, with every answer success and every framebuffer byte
written. -/
def rig (bus : Bus) (cs : Bool) : State :=
  { State.reset with
    cfg := { scenarioCfg with width := 2, height := 16, bus := bus, hasCs := cs }
    initDone := true
    hopWritten := true
    answers := List.replicate 20 .ok
    fb := [(0, 1), (1, 2), (2, 3), (3, 4)] }

/-- On I2C. -/
def rigI2c : State := rig .i2c false

/-- On SPI with a CS line. -/
def rigSpi : State := rig .spi true

/-- A panel in its reset state, on a board without a reset line, before INIT. -/
def rigFresh : State :=
  { rigI2c with
    cfg := { rigI2c.cfg with hasRes := false }
    initDone := false
    panel := { rigI2c.panel with standing := .inReset } }

/-- A state with the panel replaced. -/
def withP (s : State) (f : Panel → Panel) : State := { s with panel := f s.panel }

/-- The state an instruction leads to, if it leads to one. -/
def after (i : Instr) (s : State) : Option State :=
  match exec i s with
  | .next t => some t
  | .fault _ => none
  | .refused _ => none

/-- The state a step leads to, if it leads to one. -/
def stepped (s : State) : Option State :=
  match step s with
  | .next t => some t
  | .fault _ => none
  | .refused _ => none

/-! ## One-step vectors of 95_test_vectors.md -/

/-- K1: the wire trace and the status of RESET with a reset line. -/
theorem test_reset_trace :
    (after .reset rigI2c).map (fun t => (t.trace, t.hstat, t.lifecycle, t.lineRes)) =
      some ([.pin .res true, .wait 1, .pin .res false, .wait 20, .pin .res true, .wait 20],
        0x00000100, .reset, .hi) := by decide

/-- K1, P16: the panel is in its reset state, and awaits no contrast value. -/
theorem test_reset_panel :
    (after .reset (withP rigI2c fun p => { p with cpend := true })).map
      (fun t => (t.panel.standing, t.panel.cpend)) = some (.inReset, false) := by decide

/-- K3. -/
theorem test_poweron :
    (after .poweron rigI2c).map (fun t => (t.trace, t.hstat, t.lifecycle, t.panel.lit)) =
      some ([.i2cTxn [0x78, 0x80, 0xAF]], 0x00000200, .poweredOn, true) := by decide

/-- R182, example: SPI without CS. -/
theorem test_poweroff :
    (after .poweroff (rig .spi false)).map (fun t => (t.trace, t.hstat, t.lifecycle, t.panel.lit)) =
      some ([.spiCfg ⟨10000000, 0, 0⟩, .pin .dc false, .spiXfer [0xAE]], 0x00000300, .poweredOff, false) := by
  decide

/-- K5. -/
theorem test_sleep :
    (after (.sleep 0x80) rigI2c).map (fun t => (t.trace, t.hstat, t.lifecycle)) =
      some ([.i2cTxn [0x78, 0x80, 0xAE]], 0x00000400, .sleeping) := by decide

/-- K6: the level that would be a command byte. -/
theorem test_contrast :
    (after (.contrast 0xAF) rigI2c).map (fun t => (t.trace, t.panel.contrast, t.panel.lit)) =
      some ([.i2cTxn [0x78, 0x80, 0x81], .i2cTxn [0x78, 0x80, 0xAF]], 0xAF, false) := by decide

/-- K7: the second command of a CONTRAST fails. -/
theorem test_contrast_fails :
    (after (.contrast 0x10) { rigI2c with answers := [.ok, .err .nack 0] }).map
      (fun t => (t.hstat, t.panel.cpend)) = some (0x00010502, true) := by decide

/-- K9. -/
theorem test_invert :
    (after (.invert 1) rigSpi).map (fun t => (t.trace, t.panel.inverted)) =
      some ([.spiCfg ⟨10000000, 0, 0⟩, .pin .cs true, .pin .dc false, .pin .cs false, .spiXfer [0xA7],
        .pin .cs true], true) := by decide

set_option maxRecDepth 4000 in
/-- K11 on I2C: where the panel stands after a SHOW. -/
theorem test_show_panel :
    (after .showPages rigI2c).map
      (fun t => (t.hstat, t.panel.page, t.panel.col,
        [pramByte t.panel 0 2, pramByte t.panel 0 3, pramByte t.panel 1 2, pramByte t.panel 1 3])) =
      some (0x00000700, 1, 4, [1, 2, 3, 4]) := by decide

set_option maxRecDepth 4000 in
/-- K12: the low column command of page 1 fails. -/
theorem test_show_fails :
    (after .showPages { rigI2c with answers := List.replicate 5 .ok ++ [.err .timeout 3] }).map
      (fun t => (t.hstat, t.trace.length, t.panel.col)) = some (0x00050706, 6, 2) := by decide

set_option maxRecDepth 4000 in
/-- K15: INIT without a reset line. -/
theorem test_init :
    (after .init rigFresh).map (fun t => (t.hstat, t.tcl.length, t.initDone, t.lifecycle)) =
      some (0x00000800, 10, true, .poweredOn) := by decide

/-- K14: `CMD(0xAF)` of an INIT with a reset line fails. -/
theorem test_init_fails :
    (after .init { rigI2c with initDone := false, answers := [.err .nack 0] }).map
      (fun t => (t.hstat, t.lifecycle, t.initDone, t.fb)) =
      some (0x00070802, .reset, false, [(0, 0), (1, 0), (2, 0), (3, 0)]) := by decide

/-- F1. -/
theorem test_fill :
    (after (.fill 1) rigI2c).map (fun t => (t.fb, t.hstat, t.trace)) =
      some ([(0, 0xFF), (1, 0xFF), (2, 0xFF), (3, 0xFF)], 0x00000900, []) := by decide

/-- F9: the panel keeps what it shows. -/
theorem test_fill_panel : (after (.fill 1) rigI2c).map (·.panel) = some rigI2c.panel := by decide

/-- T1. -/
theorem test_writeCmd :
    (after (.writeCmd 0xA7) rigI2c).map (fun t => (t.trace, t.hstat, t.panel.inverted)) =
      some ([.i2cTxn [0x78, 0x80, 0xA7]], 0x00000A00, true) := by decide

/-- T10: the transfer fails before its byte. -/
theorem test_writeCmd_fails :
    (after (.writeCmd 0xAF) { rigSpi with answers := [.ok, .err .timeout 0] }).map
      (fun t => (t.hstat, t.lineCs, t.panel.lit)) = some (0x00000A06, .lo, false) := by decide

/-- T4. -/
theorem test_writeData :
    (after .writeData { withP rigI2c (fun p => { p with col := 2 }) with hdata := [0xAA, 0x55] }).map
      (fun t => (t.trace, pramByte t.panel 0 2, pramByte t.panel 0 3, t.panel.col)) =
      some ([.i2cTxn [0x78, 0x40, 0xAA, 0x55]], 0xAA, 0x55, 4) := by decide

/-- T3: an empty block. -/
theorem test_writeData_empty :
    (after .writeData rigI2c).map (fun t => (t.trace, t.panel)) =
      some ([.i2cTxn [0x78, 0x40]], rigI2c.panel) := by decide

/-- R125, example: `W = 128`, `fbwr 130, #0x81`. -/
theorem test_fbWrite :
    (after (.fbWrite 0x81) { State.reset with haddr := 130 }).map
      (fun t => (pixel t 2 8, pixel t 2 9, pixel t 2 14, pixel t 2 15)) =
      some (true, false, false, true) := by decide

/-- F4: an index outside the framebuffer. -/
theorem test_fbWrite_outside :
    (after (.fbWrite 1) { rigI2c with haddr := 4 }).map (fun t => (t.refused, t.fb)) =
      some (true, rigI2c.fb) := by decide

/-- F3. -/
theorem test_fbRead :
    (after .fbRead { rigI2c with haddr := 3 }).map (fun t => (t.hres, t.hstat)) =
      some (4, 0x00000D00) := by decide

/-- Rule R246: the high nibble stays. -/
theorem test_setLowCol :
    (after (.setLowCol 5) (withP rigI2c fun p => { p with col := 0x3C })).map (·.panel.col) =
      some 0x35 := by decide

/-- Rule R247: the low nibble stays. -/
theorem test_setHighCol :
    (after (.setHighCol 8) (withP rigI2c fun p => { p with col := 0x3C })).map (·.panel.col) =
      some 0x8C := by decide

/-- P10. -/
theorem test_setContrast :
    (after (.setContrast 0xA7) rigI2c).map (fun t => (t.panel.contrast, t.panel.inverted, t.panel.cpend)) =
      some (0xA7, false, false) := by decide

/-- Rule R98: a contrast value is awaited. -/
theorem test_setContrast_awaited :
    (after (.setContrast 0xAF) (withP rigI2c fun p => { p with cpend := true })).map
      (fun t => (t.panel.contrast, t.panel.lit, t.panel.cpend)) = some (0x81, true, false) := by decide

theorem test_setNormInv : (after (.setNormInv 1) rigI2c).map (·.panel.inverted) = some true := by decide

theorem test_setDisp : (after (.setDisp 1) rigI2c).map (·.panel.lit) = some true := by decide

/-- Rule R245: the column stays. -/
theorem test_setPage :
    (after (.setPage 7) (withP rigI2c fun p => { p with col := 9 })).map (fun t => (t.panel.page, t.panel.col)) =
      some (7, 9) := by decide

/-- P11, the last column of the display memory. -/
theorem test_dataByte :
    (after (.dataByte 1) (withP rigI2c fun p => { p with col := 131 })).map
      (fun t => (pramByte t.panel 0 131, t.panel.pram.length, t.panel.col)) = some (1, 1, 132) := by decide

/-- P11, one past it. -/
theorem test_dataByte_outside :
    (after (.dataByte 2) (withP rigI2c fun p => { p with col := 132 })).map
      (fun t => (t.refused, t.panel.standing)) = some (true, .abandoned) := by decide

/-- P6 with a panel whose fields are undefined: another device's transaction leaves all of them. -/
theorem test_other_device_undefined_panel :
    let r := (withP rigI2c fun p => { p with standing := .undefined, page := 5, fh := .ctrl }).rx
    let p := (i2cTransaction rigI2c.wires [0x7A, 0x80, 0xAF] r).panel
    (p.page, p.lit, p.fh, p.standing) = (5, false, .dropped, .undefined) := by decide

/-- Rule R40: column 256 of a page is no place of the next page. -/
theorem test_pages_do_not_overlap :
    Memory.byte? (Memory.put [] (pramAddr 1 0) 0xAB) (pramAddr 0 256) = none ∧
      Memory.byte? (Memory.put [] (pramAddr 0 256) 0xAB) (pramAddr 0 256) = some 0xAB := by decide

/-- P6: another address. -/
theorem test_i2cAddress :
    (after (.i2cAddress 0x3C) rigI2c).map (·.panel.fh) = some .ctrl ∧
      (after (.i2cAddress 0x3D) rigI2c).map (·.panel.fh) = some .dropped := by decide

/-- Rule R100, the four control bytes. -/
theorem test_ctlOneCmd :
    (after .ctlOneCmd (withP rigI2c fun p => { p with fh := .ctrl })).map (·.panel.fh) =
      some (.one .cmd) := by decide

theorem test_ctlDataStream :
    (after .ctlDataStream (withP rigI2c fun p => { p with fh := .ctrl })).map (·.panel.fh) =
      some (.stream .data) := by decide

theorem test_ctlCmdStream :
    (after .ctlCmdStream (withP rigI2c fun p => { p with fh := .ctrl })).map (·.panel.fh) =
      some (.stream .cmd) := by decide

theorem test_ctlOneData :
    (after .ctlOneData (withP rigI2c fun p => { p with fh := .ctrl })).map (·.panel.fh) =
      some (.one .data) := by decide

/-- P2: a command stream. -/
theorem test_frame_command_stream :
    let p := (i2cTransaction rigI2c.wires [0x78, 0x00, 0xB3, 0x05, 0x11] rigI2c.rx).panel
    (p.page, p.col) = (3, 0x15) := by decide

/-- P4: one data byte, then one command. -/
theorem test_frame_mixed :
    let p := (i2cTransaction rigI2c.wires [0x78, 0xC0, 0x77, 0x80, 0xAF]
      (withP rigI2c fun p => { p with col := 2 }).rx).panel
    (pramByte p 0 2, p.lit) = (0x77, true) := by decide

/-- P15: a byte during the reset. -/
theorem test_byte_during_reset :
    (after (.setDisp 1) { withP rigI2c (fun p => { p with phase := .held }) with lineRes := .lo }).map
      (·.refused) = some true := by decide

/-! ## A step, and construction -/

/-- From reset, `withFetchWord` makes the next step run the word. -/
theorem test_step_runs_the_word :
    (stepped (State.reset.withFetchWord 16 0x0D00)).map (·.hstat) = some 0x00000D00 ∧
      (stepped (State.reset.withFetchWord 8 0xB3)).map (·.panel.page) = some 3 := by decide

/-- X1 to X6. -/
theorem test_construction :
    (construct { scenarioCfg with width := 0, height := 12 } scenarioParams .zero).hstat = 0x00000001 ∧
      (construct { scenarioCfg with width := 8, height := 0 } scenarioParams .zero).hstat = 0x00000005 ∧
      (construct { scenarioCfg with width := 8, height := 136 } scenarioParams .zero).hstat = 0x00000009 ∧
      (construct { scenarioCfg with i2cAddr := 0x80 } scenarioParams .zero).hstat = 0x0000000D ∧
      (construct { scenarioCfg with width := 8, height := 8, bus := .spi } scenarioParams .zero).hstat = 0 := by
  decide

/-! ## Witnesses: for every statement with hypotheses, a state and operands that meet them -/

theorem rigI2c_accepts : rigI2c.accepts := ⟨rfl, rfl⟩

theorem rigSpi_accepts : rigSpi.accepts := ⟨rfl, rfl⟩

theorem rigFresh_accepts : rigFresh.accepts := ⟨rfl, rfl⟩

theorem rigI2c_hears : rigI2c.hears := ⟨rfl, rfl⟩

theorem rigI2c_wired : rigI2c.wired := by
  show selectsPanel rigI2c.wires (cfgAddrByte rigI2c.cfg) = true
  decide

theorem rigI2c_listens : rigI2c.panelListens := ⟨rfl, rigI2c_hears, rigI2c_wired⟩

theorem rigSpi_wired : rigSpi.wired := by
  show rigSpi.cfg.spiBaud ≤ rigSpi.par.panelMaxBaud
  decide

theorem rigSpi_listens : rigSpi.panelListens := ⟨rfl, ⟨rfl, rfl⟩, rigSpi_wired⟩

theorem rigI2c_ok (n : Nat) (h : n ≤ 20) : rigI2c.answersOk n := by
  show (List.replicate 20 BusAnswer.ok).take n = List.replicate n .ok
  rw [List.take_replicate, Nat.min_eq_left h]

theorem rigSpi_ok (n : Nat) (h : n ≤ 20) : rigSpi.answersOk n := rigI2c_ok n h

theorem rigFresh_ok (n : Nat) (h : n ≤ 20) : rigFresh.answersOk n := rigI2c_ok n h

theorem rig_constructed :
    constructionCause rigI2c.cfg = none ∧ constructionCause rigSpi.cfg = none ∧
      constructionCause rigFresh.cfg = none := by decide

theorem rigI2c_fits : rigI2c.fits := by
  show rigI2c.cfg.W + 2 ≤ rigI2c.par.panelCols ∧ rigI2c.cfg.PAGES ≤ rigI2c.par.panelPages ∧
    rigI2c.cfg.W + 2 < 256
  decide

theorem witness_DecodeOfEncodeIsTheInstruction : WellFormed (.fill 1) = true := by decide

theorem witness_DecodedWordEncodesBack :
    decode (.hop 0x0901) = .ok (.fill 1) ∧ decode (.wire .cmd [0x81, 0x40]) = .ok (.setContrast 0x40) := by
  decide

theorem witness_ReservedWordIsRefused :
    ({ rigI2c with hop := 0x0E00, inputs := [.submit] } : State).busy = false ∧
      HopReserved 0x0000 ∧ HopReserved 0x0E00 ∧ HopReserved 0x0101 ∧ HopReserved 0x0902 := by
  refine ⟨rfl, ?_, ?_, ?_, ?_⟩ <;> (unfold HopReserved; decide)

/-- A submitted word, and two units on the wire of which one leaves a byte. -/
theorem witness_StepRunsTheDecodedInstruction :
    rigI2c.busy = false ∧ rigI2c.hopWritten = true ∧ decodeHop 0x0700 = .ok .showPages ∧
      decodeWire .cmd [0xAF, 0xB1] = .ok (.setDisp 1, [0xB1]) ∧
      decodeWire .ctl [0x40] = .ok (.ctlDataStream, []) ∧ rigI2c.panel.cpend = false := by decide

/-- Every input of the statement can head the list of an idle state; an operation in progress. -/
theorem witness_StepTakesTheOtherInputs :
    rigI2c.busy = false ∧ rigI2c.inputs = [] ∧
      ({ rigI2c with inputs := [.writeHop 0x0700] } : State).inputs = .writeHop 0x0700 :: [] ∧
      ({ rigI2c with inputs := [.writeHaddr 5] } : State).inputs = .writeHaddr 5 :: [] ∧
      ({ rigI2c with inputs := [.writeHdata [1]] } : State).inputs = .writeHdata [1] :: [] ∧
      ({ rigI2c with inputs := [.otherDevice ⟨1, 1, 1⟩] } : State).inputs = .otherDevice ⟨1, 1, 1⟩ :: [] ∧
      State.reset.hopWritten = false ∧ State.reset.busy = false ∧
      (beginOp 0x0200 [.cmd 0xAF] rigI2c).busy = true ∧
      rigI2c.panel.standing ≠ .abandoned ∧ rigI2c.cfg.bus = .i2c ∧ rigI2c.panel.standing.known = true ∧
      (withP rigI2c fun p => { p with standing := .abandoned }).panel.standing = .abandoned ∧
      (withP rigI2c fun p => { p with cpend := true }).panel.cpend = true ∧
      (0x79#8).getLsbD 0 = true ∧ (0x41#8).extractLsb' 0 6 ≠ 0 := by decide

theorem witness_ConstructionLeavesTheTableState :
    legalParams scenarioCfg scenarioParams = true ∧ constructionCause scenarioCfg = none ∧
      legalParams { scenarioCfg with height := 60 } scenarioParams = true ∧
      constructionCause { scenarioCfg with height := 60 } = some 1 := by decide

/-- One configuration for each clause, at the edge of its range. -/
theorem witness_ConstructionChecksInOrder :
    (({ scenarioCfg with width := 0 } : Cfg).width ≤ 0) ∧
      (0 < scenarioCfg.width ∧ ({ scenarioCfg with height := 12 } : Cfg).height % 8 ≠ 0) ∧
      (({ scenarioCfg with height := 136 } : Cfg).height % 8 = 0 ∧
        16 < ({ scenarioCfg with height := 136 } : Cfg).height / 8) ∧
      (({ scenarioCfg with height := 128 } : Cfg).height / 8 ≤ 16 ∧ scenarioCfg.bus = .i2c ∧
        0x7F < ({ scenarioCfg with i2cAddr := 0x80 } : Cfg).i2cAddr) ∧
      (({ scenarioCfg with i2cAddr := 0x7F } : Cfg).i2cAddr ≤ 0x7F ∧ scenarioCfg.hasCs = false ∧
        scenarioCfg.width ≤ scenarioParams.maxData) ∧
      (({ scenarioCfg with bus := .spi, spiBaud := 0 } : Cfg).bus = .spi) ∧
      (({ scenarioCfg with hasCs := true } : Cfg).hasCs = true) ∧
      ((({ scenarioParams with maxData := 127 } : OpenParams).maxData : Int) < scenarioCfg.width) := by decide

theorem witness_DeadBlockRefusesAndEmitsNothing :
    isHostOp .showPages = true ∧ ({ rigI2c with dead := true } : State).busy = false ∧
      ({ rigI2c with dead := true } : State).dead = true ∧
      (stepped { rigI2c with dead := true, inputs := [.submit] }).isSome = true := by decide

theorem witness_FillWritesEveryByte :
    rigI2c.accepts ∧ ((1 : Byte) = 0 ∨ (1 : Byte) = 1) ∧ (2 : Byte) ≠ 0 ∧ (2 : Byte) ≠ 1 ∧
      constructionCause rigI2c.cfg = none ∧ (∀ c ∈ rigI2c.fb, c.1 < rigI2c.cfg.fbSize) ∧
      1 < rigI2c.cfg.W ∧ 15 < rigI2c.cfg.H :=
  ⟨rigI2c_accepts, by decide, by decide, by decide, by decide, by decide, by decide, by decide⟩

theorem witness_FbWriteWritesOneByte :
    rigI2c.accepts ∧ ({ rigI2c with haddr := 3 } : State).haddr < rigI2c.cfg.fbSize ∧
      rigI2c.cfg.fbSize ≤ ({ rigI2c with haddr := 4 } : State).haddr :=
  ⟨rigI2c_accepts, by decide, by decide⟩

theorem witness_FbReadReadsOneByte :
    rigI2c.accepts ∧ ({ rigI2c with haddr := 3 } : State).haddr < rigI2c.cfg.fbSize ∧
      rigI2c.cfg.fbSize ≤ ({ rigI2c with haddr := 4 } : State).haddr ∧
      (let s := { rigI2c with fb := [(0, 1)], haddr := 3 }
       s.accepts ∧ s.haddr < s.cfg.fbSize ∧ Memory.byte? s.fb s.haddr = none) :=
  ⟨rigI2c_accepts, by decide, by decide, ⟨rfl, rfl⟩, by decide, by decide⟩

theorem witness_ReadModifyWriteSetsOnePixel :
    rigI2c.accepts ∧ 1 < rigI2c.cfg.W ∧ 15 < 8 * rigI2c.cfg.PAGES ∧
      ({ rigI2c with haddr := 3 } : State).haddr = (15 / 8) * rigI2c.cfg.W + 1 :=
  ⟨rigI2c_accepts, by decide, by decide, by decide⟩

theorem witness_FramebufferOpsTouchNoDevice :
    (after .fbRead rigI2c).isSome = true ∧ (after (.fbWrite 7) rigI2c).isSome = true ∧
      (after (.fill 1) rigI2c).isSome = true := by decide

theorem witness_ExpansionTable :
    rigI2c.cfg.bus = .i2c ∧ rigSpi.cfg.bus = .spi ∧ rigSpi.cfg.hasCs = true ∧
      (rig .spi false).cfg.bus = .spi ∧ (rig .spi false).cfg.hasCs = false := by decide

/-- A byte of every kind, and a panel that awaits a contrast value. -/
theorem witness_WriteCmdSendsOneCommand :
    rigSpi.accepts ∧ rigSpi.answersOk (busLoad rigSpi.cfg [.cmd 0x05]) ∧ rigSpi.panelListens ∧
      rigSpi.panel.cpend = false ∧ (withP rigSpi fun p => { p with cpend := true }).panel.cpend = true ∧
      decode (.wire .cmd [0x05]) = .ok (.setLowCol 5) ∧ decode (.wire .cmd [0x15]) = .ok (.setHighCol 5) ∧
      decode (.wire .cmd [0xB5]) = .ok (.setPage 5) ∧ decode (.wire .cmd [0xA7]) = .ok (.setNormInv 1) ∧
      decode (.wire .cmd [0xAF]) = .ok (.setDisp 1) ∧
      decode (.wire .cmd [0xE3]) = .error .unmodelledCommand :=
  ⟨rigSpi_accepts, rigSpi_ok _ (by decide), rigSpi_listens, rfl, rfl, by decide, by decide, by decide,
    by decide, by decide, by decide⟩

/-- A block that fits, at the last columns of the display memory, and one too long. -/
theorem witness_WriteDataSendsTheBlock :
    rigI2c.accepts ∧ ([0xAA, 0x55] : List Byte).length ≤ rigI2c.par.maxData ∧
      rigI2c.answersOk (busLoad rigI2c.cfg [.data [0xAA, 0x55]]) ∧ rigI2c.panelListens ∧
      rigI2c.panel.cpend = false ∧ rigI2c.panel.page.toNat < rigI2c.par.panelPages ∧
      (130#8).toNat + ([0xAA, 0x55] : List Byte).length ≤ rigI2c.par.panelCols ∧
      ({ rigI2c.par with maxData := 1 } : OpenParams).maxData < ([0xAA, 0x55] : List Byte).length :=
  ⟨rigI2c_accepts, by decide, rigI2c_ok _ (by decide), rigI2c_listens, rfl, by decide, by decide, by decide⟩

theorem witness_CommandBytesReachThePanel :
    opCalls (.contrast 0x40) rigI2c = ([0x81, 0x40] : List Byte).map .cmd ∧ rigI2c.accepts ∧
      rigI2c.panelListens ∧ rigI2c.answersOk (busLoad rigI2c.cfg (opCalls (.contrast 0x40) rigI2c)) :=
  ⟨rfl, rigI2c_accepts, rigI2c_listens, rigI2c_ok _ (by decide)⟩

theorem witness_DisplaySwitchesOnAndOff :
    rigI2c.accepts ∧ rigI2c.answersOk (busLoad rigI2c.cfg [.cmd 0xAF]) ∧ rigI2c.panelListens ∧
      rigI2c.panel.cpend = false :=
  ⟨rigI2c_accepts, rigI2c_ok _ (by decide), rigI2c_listens, rfl⟩

theorem witness_ContrastSendsTwoCommands :
    rigI2c.accepts ∧ rigI2c.answersOk (busLoad rigI2c.cfg [.cmd 0x81, .cmd 0xFF]) ∧
      rigI2c.panelListens ∧ rigI2c.panel.cpend = false :=
  ⟨rigI2c_accepts, rigI2c_ok _ (by decide), rigI2c_listens, rfl⟩

theorem witness_InvertSetsTheDisplayMode :
    rigI2c.accepts ∧ ((1 : Byte) = 0 ∨ (1 : Byte) = 1) ∧
      rigI2c.answersOk (busLoad rigI2c.cfg [.cmd (0xA6 + 1)]) ∧ rigI2c.panelListens ∧
      rigI2c.panel.cpend = false ∧ (3 : Byte) ≠ 0 ∧ (3 : Byte) ≠ 1 :=
  ⟨rigI2c_accepts, by decide, rigI2c_ok _ (by decide), rigI2c_listens, rfl, by decide, by decide⟩

theorem witness_ResetPulsesTheLine :
    rigI2c.accepts ∧ rigI2c.cfg.hasRes = true ∧ rigI2c.panel.standing ≠ .abandoned ∧
      rigFresh.accepts ∧ rigFresh.cfg.hasRes = false :=
  ⟨rigI2c_accepts, rfl, by decide, rigFresh_accepts, rfl⟩

theorem witness_ShowSendsEveryPage :
    rigSpi.accepts ∧ constructionCause rigSpi.cfg = none ∧
      rigSpi.answersOk (busLoad rigSpi.cfg (opCalls .showPages rigSpi)) :=
  ⟨rigSpi_accepts, by decide, rigSpi_ok _ (by decide)⟩

theorem witness_ShowFillsThePanelMemory :
    rigI2c.accepts ∧ constructionCause rigI2c.cfg = none ∧ rigI2c.panelListens ∧
      rigI2c.panel.cpend = false ∧ rigI2c.fits ∧
      rigI2c.answersOk (busLoad rigI2c.cfg (opCalls .showPages rigI2c)) :=
  ⟨rigI2c_accepts, by decide, rigI2c_listens, rfl, rigI2c_fits, rigI2c_ok _ (by decide)⟩

theorem witness_ShowMakesTheImageVisible :
    (rigI2c.accepts ∧ constructionCause rigI2c.cfg = none ∧ rigI2c.panelListens ∧
      rigI2c.panel.cpend = false ∧ rigI2c.fits ∧
      rigI2c.answersOk (busLoad rigI2c.cfg (opCalls .showPages rigI2c))) ∧
      1 < rigI2c.cfg.W ∧ 15 < rigI2c.cfg.H :=
  ⟨witness_ShowFillsThePanelMemory, by decide, by decide⟩

theorem witness_InitRunsTheBootSequence :
    rigI2c.accepts ∧ constructionCause rigI2c.cfg = none ∧
      rigI2c.answersOk (busLoad rigI2c.cfg (opCalls .init rigI2c)) ∧ rigI2c.cfg.bus = .i2c ∧
      rigSpi.cfg.bus = .spi ∧ rigSpi.answersOk (busLoad rigSpi.cfg (opCalls .init rigSpi)) :=
  ⟨rigI2c_accepts, by decide, rigI2c_ok _ (by decide), rfl, rfl, rigSpi_ok _ (by decide)⟩

theorem witness_InitWithResetLineShowsAClearImage :
    rigI2c.accepts ∧ constructionCause rigI2c.cfg = none ∧ rigI2c.cfg.hasRes = true ∧ rigI2c.wired ∧
      rigI2c.panel.standing ≠ .abandoned ∧ rigI2c.fits ∧
      rigI2c.answersOk (busLoad rigI2c.cfg (opCalls .init rigI2c)) :=
  ⟨rigI2c_accepts, by decide, rfl, rigI2c_wired, by decide, rigI2c_fits, rigI2c_ok _ (by decide)⟩

/-- A panel in its reset state, and one out of it. -/
theorem witness_InitWithoutResetLineNeedsAResetPanel :
    rigFresh.accepts ∧ constructionCause rigFresh.cfg = none ∧ rigFresh.cfg.hasRes = false ∧
      rigFresh.wired ∧ rigFresh.answersOk (busLoad rigFresh.cfg (opCalls .init rigFresh)) ∧
      rigFresh.panel.standing = .inReset ∧ rigFresh.panel.cpend = false ∧ rigFresh.hears ∧ rigFresh.fits ∧
      (withP rigFresh fun p => { p with standing := .ordinary }).panel.standing ≠ .inReset :=
  ⟨rigFresh_accepts, by decide, rfl, rigI2c_wired, rigFresh_ok _ (by decide), rfl, rfl, ⟨rfl, rfl⟩,
    rigI2c_fits, by decide⟩

theorem witness_OperationsBeforeInitUndefineThePanel :
    rigFresh.accepts ∧ rigFresh.initDone = false ∧ constructionCause rigFresh.cfg = none ∧
      operandLegal .showPages rigFresh = true ∧
      rigFresh.answersOk (busLoad rigFresh.cfg (opCalls .showPages rigFresh)) :=
  ⟨rigFresh_accepts, rfl, by decide, by decide, rigFresh_ok _ (by decide)⟩

/-- An I2C transaction that fails, and an SPI transfer that fails, each in the middle of an operation. -/
theorem witness_FailedActionAborts :
    (let s := { beginOp 0x0200 [.cmd 0xAF] rigI2c with answers := [.err .nack 2] }
     s.busy = true ∧ s.tcl[s.tpc]? = some (.cmd 0xAF) ∧
       (expansion s (.cmd 0xAF))[s.bpc]? = some (.i2cTxn [0x78, 0x80, 0xAF]) ∧
       (BusAction.i2cTxn [0x78, 0x80, 0xAF]).allows .nack = true ∧ unsupported s = false) ∧
    (let s := { beginOp 0x0200 [.cmd 0xAF] rigSpi with bpc := 4, answers := [.err .timeout 0] }
     (expansion s (.cmd 0xAF))[s.bpc]? = some (.spiXfer [0xAF]) ∧
       (BusAction.spiXfer [0xAF]).allows .timeout = true ∧ unsupported s = false) ∧
    (let s := { beginOp 0x0200 [.cmd 0xAF] rigSpi with answers := [.err .notReady 0] }
     (expansion s (.cmd 0xAF))[s.bpc]? = some (.spiCfg ⟨10000000, 0, 0⟩) ∧
       (BusAction.spiCfg ⟨10000000, 0, 0⟩).allows .notReady = true ∧ unsupported s = false) ∧
    unsupported (beginOp 0x0200 [.cmd 0xAF] { rigI2c with initDone := false }) = true := by decide

/-- The transfer of a CONTRAST's second command, and INIT's first command. -/
theorem witness_FailedOperationStopsAtTheFailingAction :
    isHostOp (.contrast 0x40) = true ∧ rigSpi.accepts ∧ operandLegal (.contrast 0x40) rigSpi = true ∧
      opCalls (.contrast 0x40) rigSpi = [.cmd 0x81] ++ .cmd 0x40 :: [] ∧
      expansion (sentFrom (.contrast 0x40) rigSpi) (.cmd 0x40) =
        [.spiCfg ⟨10000000, 0, 0⟩, .pin .cs true, .pin .dc false, .pin .cs false] ++
          .spiXfer [0x40] :: [.pin .cs true] ∧
      (BusAction.spiXfer [0x40]).allows .timeout = true ∧
      opCalls .init rigI2c =
        [.res true, .wait 1, .res false, .wait 20, .res true, .wait 20, .fillFb false] ++
          .cmd 0xAF :: showCalls rigI2c.cfg :=
  ⟨by decide, rigSpi_accepts, by decide, rfl, rfl, by decide, rfl⟩

theorem witness_FailedTransferLeavesCsLow :
    rigSpi.accepts ∧ rigSpi.cfg.bus = .spi ∧ rigSpi.cfg.hasCs = true ∧
      (BusAction.spiCfg (blockMode rigSpi.cfg)).allows .notReady = true ∧
      (BusAction.spiXfer [0xAF]).allows .timeout = true ∧ rigSpi.answersOk 2 :=
  ⟨rigSpi_accepts, rfl, rfl, by decide, by decide, rigSpi_ok _ (by decide)⟩

/-- One failure on I2C, and the two places of a failure on SPI. -/
theorem witness_SplitContrastTakesTheNextCommand :
    (let s := { rigI2c with answers := [.ok, .err .nack 2, .ok] }
     s.accepts ∧ s.cfg.bus = .i2c ∧ s.panelListens ∧ s.panel.cpend = false ∧
       s.answers = List.replicate 1 .ok ++
         .err .nack 2 :: (List.replicate (busLoad s.cfg [.cmd 0xB0]) .ok ++ [])) ∧
    (let s := { rigSpi with answers := [.ok, .ok, .ok, .err .timeout 0, .ok, .ok] }
     s.accepts ∧ s.cfg.bus = .spi ∧ s.panelListens ∧ s.panel.cpend = false ∧
       s.answers = List.replicate 3 .ok ++
         .err .timeout 0 :: (List.replicate (busLoad s.cfg [.cmd 0xB0]) .ok ++ [])) ∧
    ({ rigSpi with answers := [.ok, .ok, .err .notReady 0, .ok, .ok] } : State).answers =
      List.replicate 2 .ok ++
        .err .notReady 0 :: (List.replicate (busLoad rigSpi.cfg [.cmd 0xB0]) .ok ++ []) :=
  ⟨⟨rigI2c_accepts, rfl, rigI2c_listens, rfl, rfl⟩, ⟨rigSpi_accepts, rfl, rigSpi_listens, rfl, rfl⟩, rfl⟩

/-- The last transfer of a SHOW fails, on either bus. -/
theorem witness_FailedShowLeavesLaterPagesStale :
    (let s := { rigI2c with answers := List.replicate 7 BusAnswer.ok ++ [BusAnswer.err .nack 3] }
     s.accepts ∧ constructionCause s.cfg = none ∧ s.panelListens ∧ s.panel.cpend = false ∧ s.fits ∧
       7 = (if s.cfg.bus = .i2c then 7 else 7 / 2) ∧ 7 < 4 * s.cfg.PAGES ∧ 1 = 7 / 4 ∧ s.cfg.bus = .i2c) ∧
    (let s := { rigSpi with answers := List.replicate 15 BusAnswer.ok ++ [BusAnswer.err .timeout 1] }
     s.accepts ∧ constructionCause s.cfg = none ∧ s.panelListens ∧ s.panel.cpend = false ∧ s.fits ∧
       7 = (if s.cfg.bus = .i2c then 15 else 15 / 2) ∧ 7 < 4 * s.cfg.PAGES ∧ 15 % 2 = 1) :=
  ⟨⟨rigI2c_accepts, by decide, rigI2c_listens, rfl, rigI2c_fits, by decide, by decide, by decide, rfl⟩,
    rigSpi_accepts, by decide, rigSpi_listens, rfl, rigI2c_fits, by decide, by decide, by decide⟩

theorem witness_PanelCommandsSetTheirField : rigI2c.hears ∧ rigI2c.panel.cpend = false :=
  ⟨rigI2c_hears, rfl⟩

theorem witness_SetContrastTakesTwoBytes :
    rigI2c.hears ∧ rigI2c.panel.cpend = false ∧ rigI2c.busy = false ∧
      (withP rigI2c fun p => { p with cpend := true }).hears ∧
      (withP rigI2c fun p => { p with cpend := true }).panel.cpend = true :=
  ⟨rigI2c_hears, rfl, rfl, ⟨rfl, rfl⟩, rfl⟩

theorem witness_AwaitedContrastTakesAnyCommand :
    (withP rigI2c fun p => { p with cpend := true }).hears ∧
      (withP rigI2c fun p => { p with cpend := true }).panel.cpend = true ∧
      encode (.setPage 3) = .wire .cmd [0xB3] :=
  ⟨⟨rfl, rfl⟩, rfl, by decide⟩

/-- Inside the display memory, at its last column, at column 0xFF of a wider one, and outside. -/
theorem witness_DataByteIsStoredOrRefused :
    rigI2c.hears ∧ rigI2c.panel.cpend = false ∧ rigI2c.panel.page.toNat < rigI2c.par.panelPages ∧
      (131#8).toNat < rigI2c.par.panelCols ∧
      (0xFF#8).toNat < ({ rigI2c.par with panelCols := 256 } : OpenParams).panelCols ∧
      rigI2c.par.panelPages ≤ (8#4).toNat ∧ rigI2c.par.panelCols ≤ (132#8).toNat ∧
      (withP rigI2c fun p => { p with cpend := true }).panel.cpend = true :=
  ⟨rigI2c_hears, rfl, by decide, by decide, by decide, by decide, by decide, rfl⟩

theorem witness_AddressByteSelectsThePanel :
    rigI2c.cfg.bus = .i2c ∧ rigI2c.hears ∧ 0x3C = rigI2c.par.panelAddr ∧
      (withP rigI2c fun p => { p with standing := .undefined }).panel.standing ≠ .abandoned ∧
      0x3D ≠ rigI2c.par.panelAddr ∧ rigSpi.cfg.bus = .spi :=
  ⟨rfl, rigI2c_hears, by decide, by decide, by decide, rfl⟩

theorem witness_ControlByteSetsTheFrame :
    (withP rigI2c fun p => { p with fh := .ctrl }).hears ∧
      (withP rigI2c fun p => { p with fh := .ctrl }).panel.fh = .ctrl ∧
      (withP rigI2c fun p => { p with standing := .undefined }).panel.standing ≠ .abandoned ∧
      rigI2c.panel.fh = .dropped := ⟨⟨rfl, rfl⟩, rfl, by decide, rfl⟩

theorem witness_BytesThePanelRefuses :
    rigI2c.busy = false ∧ rigI2c.hears ∧ rigI2c.panel.cpend = false ∧ decodeCommand 0xE3 = none ∧
      (withP rigI2c fun p => { p with fh := .ctrl }).panel.fh = .ctrl ∧ (0x41#8).extractLsb' 0 6 ≠ 0 ∧
      rigI2c.panel.standing.known = true ∧ ({ rigI2c with lineRes := .lo } : State).lineRes = .lo ∧
      (withP rigI2c fun p => { p with phase := .risen }).panel.phase ≠ .idle ∧
      (withP rigI2c fun p => { p with fh := .ctrl }).panel.fh ≠ .dropped ∧
      isHostOp (.i2cAddress 0x3C) = false ∧ rigI2c.cfg.bus = .i2c ∧ 0x3C = rigI2c.par.panelAddr :=
  ⟨rfl, rigI2c_hears, rfl, by decide, rfl, by decide, rfl, rfl, by decide, by decide, by decide, rfl,
    by decide⟩

theorem witness_FramesDeliverTheirPayload :
    rigI2c.wires.cfg.bus = .i2c ∧ selectsPanel rigI2c.wires 0x78 = true ∧
      rigI2c.rx.panel.standing.known = true ∧ duringReset rigI2c.wires rigI2c.rx = false ∧
      (([(.data, 0x77), (.cmd, 0xAE)] : List (Kind × Byte)).foldl
        (fun r f => deliver rigI2c.wires f.1 f.2 r) rigI2c.rx).panel.standing.known = true := by decide

theorem witness_OtherAddressDeliversNothing :
    rigI2c.wires.cfg.bus = .i2c ∧ (0x7A#8).extractLsb' 1 7 ≠ rigI2c.wires.par.panelAddr ∧
      (0x79#8).getLsbD 0 = true ∧ rigI2c.rx.panel.standing ≠ .abandoned := by decide

theorem witness_SpiReceiverReadsTheLines :
    rigSpi.wires.cfg.hasCs = true ∧ rigSpi.wires.lineCs ≠ .lo ∧ (rig .spi false).wires.cfg.hasCs = false ∧
      rigSpi.wires.cfg.spiBaud ≤ rigSpi.wires.par.panelMaxBaud ∧
      ({ rigSpi.wires with lineDc := .lo } : Wires).lineDc = .lo ∧ rigSpi.wires.lineDc = .x ∧
      ({ rigSpi.wires with lineDc := .hi } : Wires).lineDc = .hi ∧
      ({ rigSpi.wires with spiMode := ⟨10000000, 0, 0⟩ } : Wires).spiMode =
        { baud := rigSpi.cfg.spiBaud, pol := 0, pha := 0 } ∧
      ({ rigSpi.par with panelMaxBaud := 9999999 } : OpenParams).panelMaxBaud < rigSpi.cfg.spiBaud ∧
      rigSpi.wires.spiMode ≠ { baud := rigSpi.cfg.spiBaud, pol := 0, pha := 0 } ∧
      rigSpi.rx.panel.standing.known = true := by decide

theorem witness_LostPanelStaysLost :
    isHostOp (.setPage 3) = false ∧ rigI2c.cfg.bus = .i2c ∧
      (withP rigI2c fun p => { p with standing := .undefined }).panel.standing.known = false ∧
      (withP rigI2c fun p => { p with standing := .abandoned }).panel.standing.known = false ∧
      0x3C = rigI2c.par.panelAddr ∧ isHostOp (.i2cAddress 0x3C) = false ∧
      (withP rigI2c fun p => { p with standing := .undefined, fh := .ctrl }).panel.fh ≠ .dropped := by decide

theorem witness_ResPulseResetsThePanel :
    rigI2c.rx.panel.standing ≠ .abandoned ∧ rigI2c.rx.panel.phase = .idle ∧
      (withP rigI2c fun p => { p with standing := .abandoned }).rx.panel.standing = .abandoned := by decide

theorem witness_InvariantHoldsAfterConstruction :
    Memory.wf scenarioParams.panelReset.pram = true ∧
      pramInside scenarioParams scenarioParams.panelReset.pram :=
  ⟨rfl, by intro c hc; cases hc⟩

/-- A state that meets the invariant, in the middle of an operation, and its step. -/
theorem witness_InvariantIsKeptByEveryStep :
    Inv (beginOp 0x0200 [.cmd 0xAF] rigI2c) ∧ (stepped (beginOp 0x0200 [.cmd 0xAF] rigI2c)).isSome = true := by
  refine ⟨?_, by decide⟩
  constructor
  · rfl
  · show ∀ c ∈ rigI2c.fb, c.1 < rigI2c.cfg.fbSize
    decide
  · rfl
  · intro c hc; cases hc
  · rfl
  · intro c hc; cases hc
  · intro _
    refine ⟨by decide, ?_⟩
    intro call hc
    obtain rfl : call = .cmd 0xAF := List.mem_singleton.1 hc
    trivial
  · refine ⟨by decide, by decide, by decide⟩
  · intro _; rfl
  · intro _; rfl
  · intro _; rfl
  · intro h; cases h

/-- Steps that lead to a next state: an idle one, one of an operation in progress, a submitted INIT. -/
theorem witness_steps :
    (stepped rigI2c).isSome = true ∧ (stepped (beginOp 0x0200 [.cmd 0xAF] rigSpi)).isSome = true ∧
      (stepped { rigI2c with hop := 0x0200, inputs := [.submit] }).isSome = true := by decide

/-- The INIT that sets `INIT_DONE`, for the last clause of LatchesAreNeverCleared. -/
theorem witness_LatchesAreNeverCleared :
    (let s := { beginOp 0x0800 [] rigFresh with tpc := 0 }
     s.initDone = false ∧ (stepped s).map (·.initDone) = some true) ∧
    rigI2c.initDone = true ∧ (stepped { rigI2c with refused := true }).map (·.refused) = some true := by
  decide

/-- The last bus action of a call, and an operation that finds CS low. -/
theorem witness_CsIsHighAfterCompletedCalls :
    (let s := { beginOp 0x0200 [.cmd 0xAF] rigSpi with bpc := 5, lineCs := .lo }
     s.busy = true ∧ s.tcl[s.tpc]? = some (.cmd 0xAF) ∧ callLoad s.cfg (.cmd 0xAF) ≠ 0 ∧
       s.bpc < (expansion s (.cmd 0xAF)).length ∧ (stepped s).map (·.tpc) = some (s.tpc + 1)) ∧
    rigSpi.lineCs ≠ .lo ∧ rigSpi.cfg.bus = .spi ∧ rigSpi.cfg.hasCs = true ∧
    operandLegal .poweron rigSpi = true ∧ busLoad rigSpi.cfg (opCalls .poweron rigSpi) ≠ 0 ∧
    (after .poweron { rigSpi with lineCs := .lo }).map (fun t => hstatKind t.hstat) = some 0 := by decide

theorem witness_EveryOperationEnds : rigI2c.busy = false := rfl

theorem witness_NoSubmitWhileBusy :
    isHostOp .poweron = true ∧ (beginOp 0x0200 [.cmd 0xAF] rigI2c).busy = true := by decide

theorem witness_IllegalOperandIsRefused :
    isHostOp (.invert 3) = true ∧ rigI2c.accepts ∧ operandLegal (.invert 3) rigI2c = false ∧
      operandLegal .fbRead { rigI2c with haddr := 4 } = false ∧
      operandLegal .writeData { rigI2c with par := { rigI2c.par with maxData := 1 }, hdata := [1, 2] } = false ∧
      operandLegal .fbRead rigI2c = true :=
  ⟨by decide, rigI2c_accepts, by decide, by decide, by decide, by decide⟩

theorem witness_InstructionsKeepWhatTheyDoNotWrite :
    (after .poweron rigI2c).isSome = true ∧ (after (.setPage 3) rigI2c).isSome = true ∧
      isHostOp (.setPage 3) = false := by decide

theorem witness_TheBlockCannotReadThePanel :
    isHostOp .poweron = true ∧ busLoad rigI2c.cfg (opCalls .poweron rigI2c) ≤ rigI2c.answers.length ∧
      (after .poweron rigI2c).isSome = true ∧
      (after .poweron (rigI2c.setRx { rigI2c.rx with panel := { rigI2c.panel with cpend := true } })).isSome =
        true := by decide

end Sys2Proof.Tests
end

/-! What an instruction, a cycle of the sequencer and a step can do, said once: the inversion lemmas that the
proofs about the state go through (rules R26, R120, R230, R280, R310). -/

namespace Sys2Proof.Machine

/-! ## The status word and the operation word -/

/-- A field above the low part of a word is a field of its high part. -/
theorem extractLsb'_append_skip {v w : Nat} (a : BitVec v) (b : BitVec w) (k len : Nat) :
    (a ++ b).extractLsb' (w + k) len = a.extractLsb' k len := by
  rw [BitVec.extractLsb'_append_eq_of_le (Nat.le_add_right w k), Nat.add_sub_cancel_left]

@[simp] theorem hstatKind_mkHstat (kind cause : BitVec 2) (op : Byte) (n : Nat) :
    hstatKind (mkHstat kind cause op n) = kind := BitVec.extractLsb'_append_eq_right

@[simp] theorem hstatCause_mkHstat (kind cause : BitVec 2) (op : Byte) (n : Nat) :
    hstatCause (mkHstat kind cause op n) = cause :=
  (extractLsb'_append_skip (BitVec.ofNat 16 n ++ op ++ 0#4 ++ cause) kind 0 2).trans
    BitVec.extractLsb'_append_eq_right

@[simp] theorem hstatReserved_mkHstat (kind cause : BitVec 2) (op : Byte) (n : Nat) :
    hstatReserved (mkHstat kind cause op n) = 0 :=
  calc hstatReserved (mkHstat kind cause op n)
    _ = (BitVec.ofNat 16 n ++ op ++ 0#4 ++ cause).extractLsb' 2 4 := extractLsb'_append_skip _ _ 2 4
    _ = (BitVec.ofNat 16 n ++ op ++ 0#4).extractLsb' 0 4 := extractLsb'_append_skip _ _ 0 4
    _ = 0 := BitVec.extractLsb'_append_eq_right

@[simp] theorem hstatStep_mkHstat (kind cause : BitVec 2) (op : Byte) (n : Nat) :
    hstatStep (mkHstat kind cause op n) = BitVec.ofNat 16 n :=
  calc hstatStep (mkHstat kind cause op n)
    _ = (BitVec.ofNat 16 n ++ op ++ 0#4 ++ cause).extractLsb' 14 16 := extractLsb'_append_skip _ _ 14 16
    _ = (BitVec.ofNat 16 n ++ op ++ 0#4).extractLsb' 12 16 := extractLsb'_append_skip _ _ 12 16
    _ = (BitVec.ofNat 16 n ++ op).extractLsb' 8 16 := extractLsb'_append_skip _ _ 8 16
    _ = BitVec.ofNat 16 n := BitVec.extractLsb'_append_eq_left

@[simp] theorem opcOf_hopWord (opc imm : Byte) : opcOf (hopWord opc imm) = opc :=
  BitVec.extractLsb'_append_eq_left

/-! ## What a received byte keeps -/

/-- The display memory is in canonical form and inside its bounds (rules R40, R240). -/
def PramFormed (p : OpenParams) (m : Memory) : Prop := Memory.wf m = true ∧ pramInside p m

theorem PramFormed.nil (p : OpenParams) : PramFormed p [] := ⟨rfl, fun _ h => nomatch h⟩

theorem PramFormed.put {p : OpenParams} {m : Memory} {pg col : Nat} (h : PramFormed p m)
    (hpg : pg < p.panelPages) (hcol : col < p.panelCols) (b : Byte) :
    PramFormed p (Memory.put m (pramAddr pg col) b) := by
  refine ⟨wf_put m _ b h.1, fun c hc => ?_⟩
  rcases mem_put m _ b c hc with rfl | hc
  · exact ⟨pg, col, rfl, hpg, hcol⟩
  · exact h.2 c hc

/-- What the panel keeps whatever reaches it: `REFUSED` is not cleared (rule R31), the display memory keeps
its form if that of `PANEL_RESET` has it. -/
structure RxKeeps (w : Wires) (r r' : Rx) : Prop where
  refused : r.refused = true → r'.refused = true
  pram : PramFormed w.par w.par.panelReset.pram → PramFormed w.par r.panel.pram →
    PramFormed w.par r'.panel.pram

theorem RxKeeps.rfl' (w : Wires) (r : Rx) : RxKeeps w r r := ⟨id, fun _ => id⟩

theorem RxKeeps.trans {w : Wires} {r r' r'' : Rx} (h : RxKeeps w r r') (h' : RxKeeps w r' r'') :
    RxKeeps w r r'' :=
  ⟨h'.refused ∘ h.refused, fun hp => h'.pram hp ∘ h.pram hp⟩

/-- Of what the panel meets only the parameters matter. -/
theorem RxKeeps.congr {w w' : Wires} {r r' : Rx} (h : RxKeeps w r r') (hp : w'.par = w.par) :
    RxKeeps w' r r' := ⟨h.refused, by rw [hp]; exact h.pram⟩

/-- What a byte keeps besides: a reset in progress goes on (rule R249). -/
structure ByteKeeps (w : Wires) (r r' : Rx) : Prop extends RxKeeps w r r' where
  phase : r'.panel.phase = r.panel.phase

theorem ByteKeeps.rfl' (w : Wires) (r : Rx) : ByteKeeps w r r := ⟨.rfl' w r, rfl⟩

theorem ByteKeeps.trans {w : Wires} {r r' r'' : Rx} (h : ByteKeeps w r r') (h' : ByteKeeps w r' r'') :
    ByteKeeps w r r'' :=
  ⟨h.toRxKeeps.trans h'.toRxKeeps, h'.phase.trans h.phase⟩

theorem redraw_keeps (w : Wires) (r : Rx) : ByteKeeps w r (r.redraw w.cfg) :=
  ⟨⟨id, fun _ _ => .nil _⟩, rfl⟩

theorem refuse_keeps (w : Wires) (r : Rx) : ByteKeeps w r (r.refuse w.cfg) :=
  ⟨⟨fun _ => rfl, fun _ _ => .nil _⟩, rfl⟩

theorem undefine_keeps (w : Wires) (r : Rx) : ByteKeeps w r (r.undefine w.cfg) :=
  ⟨⟨id, fun _ _ => .nil _⟩, rfl⟩

/-- An update of other panel fields than `PRAM` and the reset phase. -/
theorem onPanel_keeps (w : Wires) (r : Rx) (f : Panel → Panel) (hram : (f r.panel).pram = r.panel.pram)
    (hphase : (f r.panel).phase = r.panel.phase) : ByteKeeps w r (r.onPanel f) :=
  ⟨⟨id, fun _ h => by simpa [hram] using h⟩, hphase⟩

/-- An update of the reset phase. -/
theorem setPhase_keeps (w : Wires) (r : Rx) (f : ResetPhase) : RxKeeps w r (r.onPanel (Panel.setPhase f)) :=
  ⟨id, fun _ h => h⟩

theorem listening_keeps (w : Wires) (f : Rx → Rx) (r : Rx) (hf : ByteKeeps w r (f r)) :
    ByteKeeps w r (listening w f r) := by
  unfold listening
  split
  · split
    · exact refuse_keeps w r
    · exact hf
  · exact redraw_keeps w r

theorem heard_keeps (w : Wires) (r : Rx) : ByteKeeps w r (r.onPanel Panel.heard) :=
  onPanel_keeps w r _ rfl rfl

theorem commandByte_keeps (w : Wires) (b : Byte) (effect : Rx → Rx) (r : Rx)
    (he : ∀ r, ByteKeeps w r (effect r)) : ByteKeeps w r (commandByte w b effect r) := by
  refine listening_keeps w _ r ((heard_keeps w r).trans ?_)
  dsimp only
  split
  · exact onPanel_keeps w _ _ rfl rfl
  · exact he _

theorem commandEffect_keeps (w : Wires) (b : Byte) (r : Rx) : ByteKeeps w r (commandEffect w b r) := by
  unfold commandEffect
  cases decodeCommand b with
  | none => exact refuse_keeps w r
  | some c => cases c <;> exact onPanel_keeps w r _ rfl rfl

theorem deliverCmd_keeps (w : Wires) (b : Byte) (r : Rx) : ByteKeeps w r (deliverCmd w b r) :=
  commandByte_keeps w b _ r (commandEffect_keeps w b)

theorem storeData_keeps (w : Wires) (b : Byte) (r : Rx) (h : outsideRam w r.panel = false) :
    ByteKeeps w r (storeData b r) := by
  simp only [outsideRam, Bool.or_eq_false_iff, decide_eq_false_iff_not, Nat.not_le] at h
  exact ⟨⟨id, fun _ hp => hp.put h.1 h.2 b⟩, rfl⟩

theorem deliverData_keeps (w : Wires) (b : Byte) (r : Rx) : ByteKeeps w r (deliverData w b r) := by
  refine listening_keeps w _ r ((heard_keeps w r).trans ?_)
  dsimp only
  split
  · exact refuse_keeps w _
  · rename_i h
    exact storeData_keeps w b _ (by simp_all)

theorem deliver_keeps (w : Wires) (k : Kind) (b : Byte) (r : Rx) : ByteKeeps w r (deliver w k b r) := by
  cases k with
  | cmd => exact deliverCmd_keeps w b r
  | data => exact deliverData_keeps w b r

theorem i2cStart_keeps (w : Wires) (b : Byte) (r : Rx) : ByteKeeps w r (i2cStart w b r) := by
  unfold i2cStart
  cases w.cfg.bus with
  | spi => exact .rfl' w r
  | i2c =>
    dsimp only
    split
    · exact redraw_keeps w r
    · split
      · exact listening_keeps w _ r (onPanel_keeps w r _ rfl rfl)
      · exact onPanel_keeps w r _ rfl rfl

theorem controlByte_keeps (w : Wires) (b : Byte) (r : Rx) : ByteKeeps w r (controlByte w b r) := by
  refine listening_keeps w _ r ?_
  cases decodeControl b with
  | none => exact refuse_keeps w r
  | some c => exact onPanel_keeps w r _ rfl rfl

theorem payloadOne_keeps (w : Wires) (k : Kind) (b : Byte) (r : Rx) :
    ByteKeeps w r (payloadOne w k b r) := by
  refine (deliver_keeps w k b r).trans ?_
  unfold payloadOne
  dsimp only
  split
  · exact onPanel_keeps w _ _ rfl rfl
  · exact .rfl' w _

theorem i2cByte_keeps (w : Wires) (r : Rx) (b : Byte) : ByteKeeps w r (i2cByte w r b) := by
  unfold i2cByte
  split
  · exact redraw_keeps w r
  · cases r.panel.fh with
    | dropped => exact .rfl' w r
    | ctrl => exact controlByte_keeps w b r
    | one k => exact payloadOne_keeps w k b r
    | stream k => exact deliver_keeps w k b r

theorem i2cStop_keeps (w : Wires) (r : Rx) : ByteKeeps w r (i2cStop r) := by
  unfold i2cStop
  split
  · exact onPanel_keeps w r _ rfl rfl
  · exact .rfl' w r

theorem foldl_keeps (w : Wires) (f : Rx → Byte → Rx) (hf : ∀ r b, ByteKeeps w r (f r b)) (l : List Byte)
    (r : Rx) : ByteKeeps w r (l.foldl f r) := by
  induction l generalizing r with
  | nil => exact .rfl' w r
  | cons b l ih => exact (hf r b).trans (ih _)

theorem i2cTransaction_keeps (w : Wires) (l : List Byte) (r : Rx) : ByteKeeps w r (i2cTransaction w l r) := by
  cases l with
  | nil => exact .rfl' w r
  | cons a rest =>
    exact ((i2cStart_keeps w a r).trans (foldl_keeps w _ (i2cByte_keeps w) rest _)).trans (i2cStop_keeps w _)

theorem spiByte_keeps (w : Wires) (r : Rx) (b : Byte) : ByteKeeps w r (spiByte w r b) := by
  have drawn : ByteKeeps w r (rxDrawn w r) := by
    unfold rxDrawn
    split
    · exact ⟨⟨id, fun _ h => h⟩, rfl⟩
    · exact .rfl' w r
  unfold spiByte
  split
  · exact .rfl' w r
  · cases w.lineDc with
    | lo => exact drawn.trans (deliverCmd_keeps w _ _)
    | hi => exact drawn.trans (deliverData_keeps w _ _)
    | x => exact drawn.trans (listening_keeps w _ _ (refuse_keeps w _))

theorem spiTransfer_keeps (w : Wires) (l : List Byte) (r : Rx) : ByteKeeps w r (spiTransfer w l r) :=
  foldl_keeps w _ (spiByte_keeps w) l r

theorem panelReset_keeps (w : Wires) (r : Rx) : RxKeeps w r (r.panelReset w) := by
  unfold Rx.panelReset
  split
  · exact (redraw_keeps w r).toRxKeeps.trans ⟨id, fun _ h => h⟩
  · exact ⟨id, fun h _ => h⟩

theorem onResPin_keeps (w : Wires) (lv : Bool) (r : Rx) : RxKeeps w r (onResPin w lv r) := by
  unfold onResPin
  cases lv with
  | false =>
    cases r.panel.phase with
    | idle | risen | risenEarly => exact setPhase_keeps w r _
    | low | held => exact .rfl' w r
  | true =>
    cases r.panel.phase with
    | low => exact (undefine_keeps w r).toRxKeeps.trans (setPhase_keeps w _ _)
    | held => exact setPhase_keeps w r _
    | idle | risen | risenEarly => exact .rfl' w r

theorem onWait_keeps (w : Wires) (ms : Nat) (r : Rx) : RxKeeps w r (onWait w ms r) := by
  unfold onWait
  split
  · cases r.panel.phase with
    | idle => exact .rfl' w r
    | low => exact setPhase_keeps w r _
    | held => exact .rfl' w r
    | risen => exact panelReset_keeps w r
    | risenEarly => exact setPhase_keeps w r _
  · exact .rfl' w r

theorem panelRx_keeps (a : BusAction) (s : State) : RxKeeps s.wires s.rx (panelRx a s) := by
  unfold panelRx
  split
  · exact (undefine_keeps s.wires s.rx).toRxKeeps
  · cases a with
    | pin line lv =>
      cases line with
      | res => exact onResPin_keeps _ lv _
      | dc => exact .rfl' _ _
      | cs => exact .rfl' _ _
    | wait ms => exact onWait_keeps _ ms _
    | i2cTxn l => exact (i2cTransaction_keeps _ l _).toRxKeeps
    | spiCfg m => exact .rfl' _ _
    | spiXfer l => exact (spiTransfer_keeps _ l _).toRxKeeps

/-! ## What an instruction does -/

/-- The word of a host operation (rule R102); 0 for a unit of the panel's wire. -/
def opWord (i : Instr) : HopWord :=
  match encode i with
  | .hop w => w
  | .wire _ _ => 0

/-- What a host operation does at its start besides latching: INIT alone does something (rule R190). -/
def opStart (i : Instr) : State → State :=
  match i with
  | .init => initStart
  | _ => id

/-- An accepted host operation about to run its transport calls (rule R120). -/
def begun (i : Instr) (s : State) : State := opStart i (beginOp (opWord i) (opCalls i s) s)

/-- A rejected operation does not look at its transport calls. -/
theorem hostOp_reject_congr (w : HopWord) (calls calls' : List TransportCall) (start : State → State)
    (s : State) : hostOp w calls true start s = hostOp w calls' true start s := by
  simp [hostOp]

/-- `SLEEP` sends the byte that `opCalls` gives (rules R92, R183). -/
theorem dispCmd_immActive (v : Byte) : dispCmd (!immActive v) = if v = 0 then 0xAF else 0xAE := by
  by_cases h : v = 0
  · subst h; rfl
  · simp only [dispCmd, immActive, bne_iff_ne.2 h, if_neg h]
    rfl

/-- Every host operation is `hostOp` of its word, its transport calls and its legal operands (rule R120). -/
theorem exec_hostOp (i : Instr) (s : State) (h : isHostOp i = true) :
    exec i s = hostOp (opWord i) (opCalls i s) (!operandLegal i s) (opStart i) s := by
  cases i with
  | sleep v => simp only [exec, execSleep, dispCmd_immActive]; rfl
  | invert flag => simp only [operandLegal, Bool.and_true]; rfl
  | fill value =>
    cases hv : isFlagImm value with
    | true =>
      have hbit : immBit value = (value == 1) := by
        revert value; decide
      simp [exec, execFill, operandLegal, WellFormed, hv, hbit]; rfl
    | false => simp only [exec, execFill, operandLegal, WellFormed, hv]; exact hostOp_reject_congr ..
  | writeData =>
    simp only [exec, execWriteData, hdataTooLong, operandLegal, WellFormed, Bool.true_and, ← decide_not,
      Nat.not_le]
    rfl
  | fbWrite v =>
    simp only [exec, execFbWrite, haddrOutside, operandLegal, WellFormed, Bool.true_and, ← decide_not,
      Nat.not_lt]
    rfl
  | fbRead =>
    simp only [exec, execFbRead, haddrOutside, operandLegal, WellFormed, Bool.true_and, ← decide_not,
      Nat.not_lt]
    rfl
  | reset | poweron | poweroff | contrast _ | showPages | init | writeCmd _ => rfl
  | setLowCol _ | setHighCol _ | setContrast _ | setNormInv _ | setDisp _ | setPage _ | dataByte _
  | i2cAddress _ | ctlOneCmd | ctlDataStream | ctlCmdStream | ctlOneData => cases h

/-- The next state of a host operation, where it has a step (rules R120, R280, R310). -/
theorem exec_hostOp_next {i : Instr} {s t : State} (hi : isHostOp i = true) (h : exec i s = .next t) :
    s.busy = false ∧ t = if s.dead || !operandLegal i s then refuse s else runToIdle (begun i s) := by
  rw [exec_hostOp i s hi, hostOp] at h
  split at h
  · cases h
  · cases h
    exact ⟨by simpa using ‹¬ s.busy = true›, rfl⟩

/-- A host operation that has a step is refused, or accepted and run to its end. -/
theorem exec_hostOp_cases {i : Instr} {s t : State} (hi : isHostOp i = true) (h : exec i s = .next t) :
    s.busy = false ∧
      (((s.dead = true ∨ operandLegal i s = false) ∧ t = refuse s) ∨
        (s.dead = false ∧ operandLegal i s = true ∧ t = runToIdle (begun i s))) := by
  obtain ⟨hb, rfl⟩ := exec_hostOp_next hi h
  refine ⟨hb, ?_⟩
  cases hd : s.dead <;> cases ho : operandLegal i s <;> simp

/-- A unit on the panel's wire changes the panel's side alone, and no reset in progress (rule R230). -/
theorem exec_panelUnit (i : Instr) (s : State) (h : isHostOp i = false) :
    ∃ r, exec i s = .next (s.setRx r) ∧ ByteKeeps s.wires s.rx r := by
  cases i with
  | reset | poweron | poweroff | sleep _ | contrast _ | invert _ | showPages | init | fill _ | writeCmd _
  | writeData | fbWrite _ | fbRead => cases h
  | setLowCol _ | setHighCol _ | setNormInv _ | setDisp _ | setPage _ =>
    exact ⟨_, rfl, commandByte_keeps _ _ _ _ fun r => onPanel_keeps _ r _ rfl rfl⟩
  | setContrast level =>
    exact ⟨_, rfl, (commandByte_keeps _ _ _ _ fun r => onPanel_keeps _ r _ rfl rfl).trans
      (deliverCmd_keeps _ level _)⟩
  | dataByte d => exact ⟨_, rfl, deliverData_keeps _ d _⟩
  | i2cAddress a => exact ⟨_, rfl, i2cStart_keeps _ _ _⟩
  | ctlOneCmd | ctlDataStream | ctlCmdStream | ctlOneData => exact ⟨_, rfl, i2cByte_keeps _ _ _⟩

end Sys2Proof.Machine

/-! One cycle of the sequencer, and one step of the machine: what they can lead to, and what they leave as it
was (rules R26, R120, R271 to R274, R310). -/

namespace Sys2Proof.Machine

/-! ## The advance -/

/-- The advance moves on within the call or completes it (rule R26). -/
theorem advance_cases (n : Nat) (s : State) :
    (s.bpc + 1 < n ∧ advance n s = atBpc s (s.bpc + 1)) ∨ (n ≤ s.bpc + 1 ∧ advance n s = callDone s) := by
  unfold advance
  split
  · exact .inl ⟨‹_›, rfl⟩
  · exact .inr ⟨by omega, rfl⟩

theorem advance_frame (n : Nat) (s : State) : CallFrame s (advance n s) := by
  obtain ⟨-, h⟩ | ⟨-, h⟩ := advance_cases n s <;> rw [h] <;> constructor <;> rfl

@[simp] theorem advance_hres (n : Nat) (s : State) : (advance n s).hres = s.hres := by
  unfold advance; split <;> rfl
@[simp] theorem advance_hstat (n : Nat) (s : State) : (advance n s).hstat = s.hstat := by
  unfold advance; split <;> rfl
@[simp] theorem advance_fb (n : Nat) (s : State) : (advance n s).fb = s.fb := by
  unfold advance; split <;> rfl
@[simp] theorem advance_trace (n : Nat) (s : State) : (advance n s).trace = s.trace := by
  unfold advance; split <;> rfl
@[simp] theorem advance_answers (n : Nat) (s : State) : (advance n s).answers = s.answers := by
  unfold advance; split <;> rfl
@[simp] theorem advance_rx (n : Nat) (s : State) : (advance n s).rx = s.rx := by
  unfold advance; split <;> rfl
@[simp] theorem advance_wires (n : Nat) (s : State) : (advance n s).wires = s.wires := by
  unfold advance; split <;> rfl

/-! ## One cycle -/

/-- What one cycle of the sequencer can lead to (rule R120): completion, the effect of a call without bus
action, a bus action that succeeds, or one that fails. -/
inductive CycleStep (s : State) : State → Prop
  | completes (hc : s.tcl[s.tpc]? = none) : CycleStep s (complete s)
  | internal (call : TransportCall) (hc : s.tcl[s.tpc]? = some call)
      (ha : (expansion s call)[s.bpc]? = none) : CycleStep s (callDone (internalEffect s call))
  | sent (call : TransportCall) (a : BusAction) (hc : s.tcl[s.tpc]? = some call)
      (ha : (expansion s call)[s.bpc]? = some a)
      (hok : a.fallible = true → admissible a (nextAnswer s) = .ok) :
      CycleStep s (advance (expansion s call).length (succeed s a))
  | failed (call : TransportCall) (a : BusAction) (c : Cause) (n : Nat) (hc : s.tcl[s.tpc]? = some call)
      (ha : (expansion s call)[s.bpc]? = some a) (hf : a.fallible = true)
      (herr : admissible a (nextAnswer s) = .err c n) :
      CycleStep s (abort c (performFailed a n (takeAnswer s)))

theorem seqStep_cycle (s : State) : CycleStep s (seqStep s) := by
  unfold seqStep
  cases hc : s.tcl[s.tpc]? with
  | none => exact .completes hc
  | some call =>
    cases ha : (expansion s call)[s.bpc]? with
    | none => simpa [ha] using CycleStep.internal call hc ha
    | some a =>
      simp only [ha, busStep]
      cases hf : a.fallible with
      | false => simpa [succeed, hf] using CycleStep.sent call a hc ha (by simp [hf])
      | true =>
        cases hr : admissible a (nextAnswer s) with
        | ok => simpa [succeed, hf, hr] using CycleStep.sent call a hc ha fun _ => hr
        | err c n => simpa [hr] using CycleStep.failed call a c n hc ha hf hr

/-- The cycle keeps what every cycle step keeps while `BUSY = 1`. -/
theorem seqRun_induct {P : State → Prop} (hstep : ∀ s, s.busy = true → P s → P (seqStep s)) (n : Nat)
    (s : State) (h : P s) : P (seqRun n s) := by
  induction n generalizing s with
  | zero => exact h
  | succ n ih =>
    unfold seqRun
    split
    · exact ih _ (hstep s ‹_› h)
    · exact h

theorem runToIdle_induct {P : State → Prop} (hstep : ∀ s, s.busy = true → P s → P (seqStep s)) (s : State)
    (h : P s) : P (runToIdle s) := seqRun_induct hstep _ s h

/-! ## What a cycle leaves as it was -/

theorem sameHost.rfl' (s : State) : sameHost s s := ⟨rfl, rfl, rfl, rfl, rfl, rfl, rfl, rfl⟩

theorem CallFrame.sameHost {s t : State} (h : CallFrame s t) : sameHost s t :=
  ⟨h.hop, h.hopWritten, h.haddr, h.hdata, h.cfg, h.par, h.dead, h.inputs⟩

/-- What no cycle writes: what no operation writes, and the operation in progress (rules R25, R120). -/
structure CycleFrame (s t : State) : Prop where
  host : sameHost s t
  cur : t.cur = s.cur
  tcl : t.tcl = s.tcl

theorem CycleFrame.cfg {s t : State} (h : CycleFrame s t) : t.cfg = s.cfg := by
  obtain ⟨-, -, -, -, hc, -⟩ := h.host; exact hc

theorem CycleFrame.par {s t : State} (h : CycleFrame s t) : t.par = s.par := by
  obtain ⟨-, -, -, -, -, hp, -⟩ := h.host; exact hp

theorem CycleFrame.dead {s t : State} (h : CycleFrame s t) : t.dead = s.dead := by
  obtain ⟨-, -, -, -, -, -, hd, -⟩ := h.host; exact hd

theorem CycleFrame.inputs {s t : State} (h : CycleFrame s t) : t.inputs = s.inputs := by
  obtain ⟨-, -, -, -, -, -, -, hi⟩ := h.host; exact hi

theorem sameHost.trans {s t u : State} (h : sameHost s t) (h' : sameHost t u) : sameHost s u := by
  obtain ⟨h1, h2, h3, h4, h5, h6, h7, h8⟩ := h
  obtain ⟨k1, k2, k3, k4, k5, k6, k7, k8⟩ := h'
  exact ⟨k1.trans h1, k2.trans h2, k3.trans h3, k4.trans h4, k5.trans h5, k6.trans h6, k7.trans h7,
    k8.trans h8⟩

theorem CycleFrame.rfl' (s : State) : CycleFrame s s := ⟨.rfl' s, rfl, rfl⟩

theorem CycleFrame.trans {s t u : State} (h : CycleFrame s t) (h' : CycleFrame t u) : CycleFrame s u :=
  ⟨h.host.trans h'.host, h'.cur.trans h.cur, h'.tcl.trans h.tcl⟩

theorem CallFrame.cycle {s t : State} (h : CallFrame s t) : CycleFrame s t := ⟨h.sameHost, h.cur, h.tcl⟩

theorem complete_frame (s : State) : CycleFrame s (complete s) := ⟨.rfl' _, rfl, rfl⟩

theorem abort_frame (c : Cause) (s : State) : CycleFrame s (abort c s) := ⟨.rfl' _, rfl, rfl⟩

theorem callDone_frame (s : State) : CallFrame s (callDone s) := by constructor <;> rfl

theorem CycleStep.frame {s t : State} (h : CycleStep s t) : CycleFrame s t := by
  cases h with
  | completes => exact complete_frame s
  | internal call => exact ((internalEffect_frame s call).1.trans (callDone_frame _)).cycle
  | sent call a => exact ((succeed_frame a s).call.trans (advance_frame _ _)).cycle
  | failed call a c n =>
    exact ((takeAnswer_frame s).trans (performFailed_frame a n _)).call.cycle.trans (abort_frame c _)

theorem seqStep_frame (s : State) : CycleFrame s (seqStep s) := (seqStep_cycle s).frame

theorem runToIdle_frame (s : State) : CycleFrame s (runToIdle s) :=
  runToIdle_induct (P := CycleFrame s) (fun t _ h => h.trans (seqStep_frame t)) s (.rfl' s)

/-! ## The start of an operation -/

/-- What the start of an operation leaves as it was, besides latching it: all but `LIFECYCLE` and the panel's
side, which the start of an INIT without a reset line writes (rules R190, R303). -/
theorem initStart_eq (s : State) :
    initStart s = { s with
      lifecycle := (initStart s).lifecycle, panel := (initStart s).panel, draws := (initStart s).draws } := by
  unfold initStart
  split
  · rfl
  · dsimp only; split <;> rfl

theorem initStart_keeps (s : State) : RxKeeps s.wires s.rx (initStart s).rx := by
  unfold initStart
  split
  · exact .rfl' _ _
  · dsimp only
    split
    · exact .rfl' _ _
    · exact (undefine_keeps s.wires s.rx).toRxKeeps

theorem begun_eq (i : Instr) (s : State) :
    begun i s = { beginOp (opWord i) (opCalls i s) s with
      lifecycle := (begun i s).lifecycle, panel := (begun i s).panel, draws := (begun i s).draws } := by
  cases i with
  | init => exact initStart_eq (beginOp _ _ s)
  | _ => rfl

theorem begun_of_ne_init {i : Instr} (h : i ≠ .init) (s : State) :
    begun i s = beginOp (opWord i) (opCalls i s) s := by
  cases i with
  | init => exact absurd rfl h
  | _ => rfl

theorem begun_keeps (i : Instr) (s : State) : RxKeeps s.wires s.rx (begun i s).rx := by
  cases i with
  | init => exact initStart_keeps (beginOp _ _ s)
  | _ => exact .rfl' _ _

@[simp] theorem begun_busy (i : Instr) (s : State) : (begun i s).busy = true := by rw [begun_eq]; rfl
@[simp] theorem begun_cur (i : Instr) (s : State) : (begun i s).cur = opWord i := by rw [begun_eq]; rfl
@[simp] theorem begun_tcl (i : Instr) (s : State) : (begun i s).tcl = opCalls i s := by rw [begun_eq]; rfl
@[simp] theorem begun_tpc (i : Instr) (s : State) : (begun i s).tpc = 0 := by rw [begun_eq]; rfl
@[simp] theorem begun_bpc (i : Instr) (s : State) : (begun i s).bpc = 0 := by rw [begun_eq]; rfl
@[simp] theorem begun_hres (i : Instr) (s : State) : (begun i s).hres = s.hres := by rw [begun_eq]; rfl
@[simp] theorem begun_hstat (i : Instr) (s : State) : (begun i s).hstat = s.hstat := by rw [begun_eq]; rfl
@[simp] theorem begun_cfg (i : Instr) (s : State) : (begun i s).cfg = s.cfg := by rw [begun_eq]; rfl
@[simp] theorem begun_par (i : Instr) (s : State) : (begun i s).par = s.par := by rw [begun_eq]; rfl
@[simp] theorem begun_initDone (i : Instr) (s : State) : (begun i s).initDone = s.initDone := by
  rw [begun_eq]; rfl
@[simp] theorem begun_dead (i : Instr) (s : State) : (begun i s).dead = s.dead := by rw [begun_eq]; rfl
@[simp] theorem begun_fb (i : Instr) (s : State) : (begun i s).fb = s.fb := by rw [begun_eq]; rfl
@[simp] theorem begun_trace (i : Instr) (s : State) : (begun i s).trace = s.trace := by rw [begun_eq]; rfl
@[simp] theorem begun_answers (i : Instr) (s : State) : (begun i s).answers = s.answers := by
  rw [begun_eq]; rfl
@[simp] theorem begun_wires (i : Instr) (s : State) : (begun i s).wires = s.wires := by rw [begun_eq]; rfl

theorem begun_sameHost (i : Instr) (s : State) : sameHost s (begun i s) := by
  rw [begun_eq]
  exact .rfl' s

/-- The opcode that an accepted operation latches is its own (rules R93, R120). -/
theorem begun_curOp {i : Instr} (h : isHostOp i = true) (s : State) : curOp (begun i s) = opcodeOf i := by
  unfold curOp
  rw [begun_cur]
  unfold opcodeOf opWord
  unfold isHostOp at h
  cases he : encode i with
  | hop w => rfl
  | wire f l => simp [he] at h

/-! ## One step -/

/-- What the outside does to an idle block: it writes the host's registers, the bus mode, the inputs, and the
panel's side by what the panel takes (rules R21 to R23, R34, R303). -/
structure IdleMove (s t : State) : Prop where
  eq : t = { s with
    hop := t.hop, hopWritten := t.hopWritten, haddr := t.haddr, hdata := t.hdata, spiMode := t.spiMode,
    inputs := t.inputs, panel := t.panel, refused := t.refused, draws := t.draws }
  rx : RxKeeps s.wires s.rx t.rx

theorem IdleMove.rfl' (s : State) : IdleMove s s := ⟨rfl, .rfl' _ _⟩

/-- An idle move after the next input has been taken. -/
theorem IdleMove.of_taken {s t : State} {rest : List Input} (h : IdleMove { s with inputs := rest } t) :
    IdleMove s t := by
  obtain ⟨heq, hrx⟩ := h
  refine ⟨?_, hrx⟩
  rw [heq]

theorem IdleMove.setRx {s : State} {r : Rx} (h : RxKeeps s.wires s.rx r) : IdleMove s (s.setRx r) := ⟨rfl, h⟩

theorem IdleMove.refuse (s : State) : IdleMove s (refuse s) := ⟨rfl, fun _ => rfl, fun _ h => h⟩

theorem IdleMove.trans {s t u : State} (h : IdleMove s t) (h' : IdleMove t u) : IdleMove s u := by
  have hpar : s.wires.par = t.wires.par := by rw [h.eq]; rfl
  refine ⟨?_, h.rx.trans (h'.rx.congr hpar)⟩
  rw [h'.eq, h.eq]

theorem IdleMove.leave (f : WireFormat) (rest : List Byte) (s : State) : IdleMove s (leave f rest s) := by
  cases rest with
  | nil => exact .rfl' s
  | cons b rest => exact ⟨rfl, .rfl' _ _⟩

theorem IdleMove.undecoded (f : WireFormat) (b : Byte) (s : State) : IdleMove s (undecoded f b s) := by
  cases f with
  | addr => exact .setRx (i2cStart_keeps _ b _).toRxKeeps
  | ctl => exact .setRx (i2cByte_keeps _ _ b).toRxKeeps
  | cmd => exact .setRx (deliverCmd_keeps _ b _).toRxKeeps
  | data => exact .setRx (deliverData_keeps _ b _).toRxKeeps

/-- A step finds an instruction, or an idle move, in which the block's own registers stay. -/
def Fetched.moves (s : State) : Fetched → Prop
  | .instr _ u => IdleMove s u
  | .goes u => IdleMove s u

theorem fetchWire_moves (f : WireFormat) (bytes : List Byte) (s : State) : (fetchWire f bytes s).moves s := by
  cases bytes with
  | nil => exact .rfl' s
  | cons b rest =>
    unfold fetchWire
    dsimp only
    split
    · exact (IdleMove.setRx (deliverCmd_keeps _ b _).toRxKeeps).trans (.leave ..)
    · cases decodeWire f (b :: rest) with
      | ok p => exact .leave ..
      | error e => exact (IdleMove.undecoded f b s).trans (.leave ..)

theorem fetchSubmit_moves (s : State) : (fetchSubmit s).moves s := by
  unfold fetchSubmit
  split
  · cases decodeHop s.hop with
    | ok i => exact .rfl' s
    | error e => exact .refuse s
  · exact .refuse s

theorem fetchInput_moves (input : Input) (s : State) : (fetchInput input s).moves s := by
  cases input with
  | writeHop w => exact ⟨rfl, .rfl' _ _⟩
  | writeHaddr a => exact ⟨rfl, .rfl' _ _⟩
  | writeHdata l => exact ⟨rfl, .rfl' _ _⟩
  | submit => exact fetchSubmit_moves s
  | otherDevice m => exact ⟨rfl, .rfl' _ _⟩
  | externalReset => exact .setRx (panelReset_keeps _ _)
  | wire f bytes => exact fetchWire_moves f bytes s
  | stop => exact .setRx (i2cStop_keeps _ _).toRxKeeps

/-- While the block is idle a step finds an instruction or makes an idle move. -/
theorem fetch_moves (s : State) (hb : s.busy = false) : (fetch s).moves s := by
  unfold fetch
  rw [if_neg (by simp [hb])]
  cases s.inputs with
  | nil => exact .rfl' s
  | cons input rest =>
    have h := fetchInput_moves input { s with inputs := rest }
    dsimp only
    revert h
    cases fetchInput input { s with inputs := rest } <;> exact IdleMove.of_taken

/-- What a step can do (rules R120, R310): go on with the operation in progress; an idle move, a refusal among
them; or, after the input has been taken, a whole accepted host operation. -/
inductive StepCase (s : State) : State → Prop
  | cycle (hb : s.busy = true) : StepCase s (seqStep s)
  | move (t : State) (hb : s.busy = false) (h : IdleMove s t) : StepCase s t
  | operation (i : Instr) (u : State) (hb : s.busy = false) (hd : s.dead = false) (h : IdleMove s u)
      (hi : isHostOp i = true) (ho : operandLegal i u = true) : StepCase s (runToIdle (begun i u))

theorem step_cases {s t : State} (h : step s = .next t) : StepCase s t := by
  unfold step at h
  cases hb : s.busy with
  | true =>
    rw [fetch, if_pos hb] at h
    cases h
    exact .cycle hb
  | false =>
    have hm := fetch_moves s hb
    cases hf : fetch s with
    | goes u =>
      rw [hf] at h hm
      cases h
      exact .move t hb hm
    | instr i u =>
      rw [hf] at h hm
      have hd : u.dead = s.dead := by rw [hm.eq]
      cases hi : isHostOp i with
      | false =>
        obtain ⟨r, hr, hk⟩ := exec_panelUnit i u hi
        cases hr.symm.trans h
        exact .move _ hb (hm.trans (.setRx hk.toRxKeeps))
      | true =>
        obtain ⟨-, ⟨-, rfl⟩ | ⟨hdead, ho, rfl⟩⟩ := exec_hostOp_cases hi h
        · exact .move _ hb (hm.trans (.refuse u))
        · exact .operation i u hb (hd ▸ hdead) hm hi ho

end Sys2Proof.Machine

/-! The invariant: it holds after construction, and every step keeps it (rules R27, R32, R33, R35, R40, R62). -/

namespace Sys2Proof.Machine

/-! ## The parts of the invariant -/

/-- The framebuffer is in canonical form and inside its bounds (rules R35, R62). -/
def FbFormed (c : Cfg) (m : Memory) : Prop := Memory.wf m = true ∧ ∀ d ∈ m, d.1 < c.fbSize

/-- The operation in progress has legal calls, and `TPC` stands among them or at their end (rules R25, R26). -/
def CallsLegal (s : State) : Prop := s.tpc ≤ s.tcl.length ∧ ∀ call ∈ s.tcl, callLegal s.cfg call

/-- Only lines that exist are driven (rule R33). -/
structure LinesExist (w : Wires) : Prop where
  res : w.cfg.hasRes = false → w.lineRes = .x
  dc : w.cfg.bus = .i2c → w.lineDc = .x
  cs : w.cfg.bus = .i2c ∨ w.cfg.hasCs = false → w.lineCs = .x

theorem Inv.fbFormed {s : State} (h : Inv s) : FbFormed s.cfg s.fb := ⟨h.fbWf, h.fbInside⟩

theorem Inv.pramFormed {s : State} (h : Inv s) : PramFormed s.par s.panel.pram := ⟨h.pramWf, h.pramInside⟩

theorem Inv.resetPramFormed {s : State} (h : Inv s) : PramFormed s.par s.par.panelReset.pram :=
  ⟨h.resetPramWf, h.resetPramInside⟩

theorem Inv.linesExist {s : State} (h : Inv s) : LinesExist s.wires := ⟨h.noRes, h.noDc, h.noCs⟩

/-- The invariant from its parts. -/
theorem Inv.of_parts {s : State} (hfb : FbFormed s.cfg s.fb) (hram : PramFormed s.par s.panel.pram)
    (hreset : PramFormed s.par s.par.panelReset.pram) (hcalls : s.busy = true → CallsLegal s)
    (hstat : hstatLegal s.hstat) (hlines : LinesExist s.wires)
    (hdead : s.dead = true → s.busy = false ∧ s.trace = []) : Inv s :=
  { fbWf := hfb.1, fbInside := hfb.2, pramWf := hram.1, pramInside := hram.2, resetPramWf := hreset.1,
    resetPramInside := hreset.2, calls := hcalls, hstat := hstat, noRes := hlines.res, noDc := hlines.dc,
    noCs := hlines.cs, deadQuiet := hdead }

/-! ## The status word -/

/-- `HSTAT` of an operation that ended without error is legal. -/
theorem hstatLegal_ok (op : Byte) : hstatLegal (mkHstat kindOk 0 op 0) := by
  simp [hstatLegal, kindOk]

/-- `HSTAT` of a kind that is neither 0 nor 3 is legal, whatever the cause and the step. -/
theorem hstatLegal_of_kind {kind : BitVec 2} (h0 : kind ≠ 0) (h3 : kind ≠ 3) (cause : BitVec 2) (op : Byte)
    (n : Nat) : hstatLegal (mkHstat kind cause op n) := by
  refine ⟨hstatReserved_mkHstat .., ?_, ?_⟩ <;> rw [hstatKind_mkHstat]
  · exact h3
  · exact fun h => absurd h h0

/-- No cycle writes an illegal `HSTAT` (rules R27, R271, R273). -/
theorem CycleStep.hstatLegal {s t : State} (h : CycleStep s t) (hs : hstatLegal s.hstat) :
    hstatLegal t.hstat := by
  cases h with
  | completes => exact hstatLegal_ok _
  | internal call => simpa [(internalEffect_frame s call).1.hstat] using hs
  | sent call a => simpa [(succeed_frame a s).hstat] using hs
  | failed => exact hstatLegal_of_kind (by decide) (by decide) _ _ _

/-! ## The framebuffer -/

/-- A legal call keeps the framebuffer in form (rules R62, R121, R125). -/
theorem internalEffect_fbFormed (s : State) (call : TransportCall) (hc : callLegal s.cfg call)
    (h : FbFormed s.cfg s.fb) : FbFormed s.cfg (internalEffect s call).fb := by
  obtain ⟨hwf, hin⟩ := h
  cases call with
  | fillFb v => exact ⟨wf_range _ _, by simp [internalEffect, fillAll]⟩
  | fbw i v =>
    refine ⟨wf_put _ _ _ hwf, fun d hd => ?_⟩
    rcases mem_put _ _ _ _ hd with rfl | hd
    · exact hc
    · exact hin d hd
  | cmd _ | data _ | dataFb _ | res _ | wait _ | fbr _ => exact ⟨hwf, hin⟩

theorem CycleStep.fbFormed {s t : State} (h : CycleStep s t) (hc : CallsLegal s) (hs : FbFormed s.cfg s.fb) :
    FbFormed s.cfg t.fb := by
  cases h with
  | completes => exact hs
  | internal call hcall => exact internalEffect_fbFormed s call (hc.2 _ (List.mem_of_getElem? hcall)) hs
  | sent call a => simpa [(succeed_frame a s).fb] using hs
  | failed call a c n => simpa [(performFailed_frame a n _).fb] using hs

/-! ## The display memory -/

theorem perform_keeps (a : BusAction) (s : State) : RxKeeps s.wires s.rx (perform a s).rx := by
  have hblock : RxKeeps s.wires s.rx (blockDrives a (emit a s)).rx := by
    cases a with
    | pin line lv => cases line <;> exact .rfl' _ _
    | wait _ | i2cTxn _ | spiCfg _ | spiXfer _ => exact .rfl' _ _
  have hpar : s.wires.par = (blockDrives a (emit a s)).wires.par := by cases a <;> simp [blockDrives]
  exact hblock.trans ((panelRx_keeps a _).congr hpar)

theorem performFailed_keeps (a : BusAction) (n : Nat) (s : State) :
    RxKeeps s.wires s.rx (performFailed a n s).rx := by
  have hblock : RxKeeps s.wires s.rx (blockDrivesFailed a (emit a s)).rx := by
    cases a <;> exact ⟨id, fun _ h => h⟩
  have hpar : s.wires.par = (blockDrivesFailed a (emit a s)).wires.par := by cases a <;> rfl
  exact hblock.trans ((panelRx_keeps (deliveredPart a n) _).congr hpar)

theorem takeAnswer_keeps (s : State) : RxKeeps s.wires s.rx (takeAnswer s).rx :=
  ⟨fun h => by simpa using h, fun _ h => by simpa using h⟩

theorem succeed_keeps (a : BusAction) (s : State) : RxKeeps s.wires s.rx (succeed s a).rx := by
  unfold succeed
  split
  · exact (takeAnswer_keeps s).trans ((perform_keeps a _).congr (takeAnswer_par s).symm)
  · exact perform_keeps a s

/-- A cycle changes the panel's side only by what the panel takes (rule R230). -/
theorem CycleStep.keeps {s t : State} (h : CycleStep s t) : RxKeeps s.wires s.rx t.rx := by
  cases h with
  | completes => exact .rfl' _ _
  | internal call =>
    obtain ⟨-, -, -, -, hrx, -⟩ := internalEffect_frame s call
    change RxKeeps s.wires s.rx (internalEffect s call).rx
    rw [hrx]
    exact .rfl' _ _
  | sent call a => rw [advance_rx]; exact succeed_keeps a s
  | failed call a c n =>
    exact (takeAnswer_keeps s).trans ((performFailed_keeps a n _).congr (takeAnswer_par s).symm)

/-! ## The lines -/

/-- A bus action on lines that exist (rule R33). -/
def actionLegal (c : Cfg) : BusAction → Prop
  | .pin .res _ => c.hasRes = true
  | .pin .dc _ => c.bus = .spi
  | .pin .cs _ => c.bus = .spi ∧ c.hasCs = true
  | .wait _ => True
  | .i2cTxn _ => True
  | .spiCfg _ => True
  | .spiXfer _ => True

theorem spiActions_legal {c : Cfg} (hb : c.bus = .spi) (dc : Bool) (l : List Byte) :
    ∀ a ∈ spiActions c dc l, actionLegal c a := by
  unfold spiActions
  split <;> simp_all [actionLegal]

theorem dataActions_legal (c : Cfg) (l : List Byte) : ∀ a ∈ dataActions c l, actionLegal c a := by
  unfold dataActions
  cases hb : c.bus with
  | i2c => simp [actionLegal]
  | spi => exact spiActions_legal hb true l

/-- The bus actions of a legal call drive lines that exist (rules R33, R143, R180). -/
theorem expansion_legal (s : State) (call : TransportCall) (hc : callLegal s.cfg call) :
    ∀ a ∈ expansion s call, actionLegal s.cfg a := by
  cases call with
  | cmd b =>
    simp only [expansion, cmdActions]
    cases hb : s.cfg.bus with
    | i2c => simp [actionLegal]
    | spi => exact spiActions_legal hb false [b]
  | data l => exact dataActions_legal _ l
  | dataFb p => exact dataActions_legal _ _
  | res lv => simpa [expansion, actionLegal, callLegal] using hc
  | wait _ | fillFb _ | fbw _ _ | fbr _ => simp [expansion, actionLegal]

theorem blockWires_linesExist {a : BusAction} {w : Wires} (ha : actionLegal w.cfg a) (h : LinesExist w) :
    LinesExist (blockWires a w) := by
  obtain ⟨hres, hdc, hcs⟩ := h
  cases a with
  | pin line lv => cases line <;> constructor <;> simp_all [blockWires, actionLegal]
  | wait _ | i2cTxn _ | spiCfg _ | spiXfer _ => exact ⟨hres, hdc, hcs⟩

/-- A failed bus action drives no line: those that can fail are no `PIN` (rule R66). -/
theorem performFailed_lines {a : BusAction} (hf : a.fallible = true) (n : Nat) (s : State) :
    (performFailed a n s).lineRes = s.lineRes ∧ (performFailed a n s).lineDc = s.lineDc ∧
      (performFailed a n s).lineCs = s.lineCs := by
  cases a with
  | pin line lv => cases hf
  | wait ms => cases hf
  | i2cTxn l => exact ⟨rfl, rfl, rfl⟩
  | spiCfg m => exact ⟨rfl, rfl, rfl⟩
  | spiXfer l => exact ⟨rfl, rfl, rfl⟩

theorem CycleStep.linesExist {s t : State} (h : CycleStep s t) (hc : CallsLegal s)
    (hs : LinesExist s.wires) : LinesExist t.wires := by
  cases h with
  | completes => exact hs
  | internal call =>
    obtain ⟨-, -, -, -, -, hw, -⟩ := internalEffect_frame s call
    change LinesExist (internalEffect s call).wires
    rwa [hw]
  | sent call a hcall ha =>
    rw [advance_wires, succeed_wires]
    exact blockWires_linesExist
      (expansion_legal s call (hc.2 _ (List.mem_of_getElem? hcall)) a (List.mem_of_getElem? ha)) hs
  | failed call a c n _ _ hf =>
    obtain ⟨hres, hdc, hcs⟩ := performFailed_lines hf n (takeAnswer s)
    have hcfg := (performFailed_frame a n (takeAnswer s)).cfg
    simp only [takeAnswer_lineRes, takeAnswer_lineDc, takeAnswer_lineCs, takeAnswer_cfg] at hres hdc hcs hcfg
    constructor
    · simpa [hres, hcfg] using hs.res
    · simpa [hdc, hcfg] using hs.dc
    · simpa [hcs, hcfg] using hs.cs

/-! ## The transport calls -/

theorem mem_resetCalls {c : Cfg} {call : TransportCall} (h : call ∈ resetCalls c) :
    c.hasRes = true ∧ ((∃ lv, call = .res lv) ∨ ∃ ms, call = .wait ms) := by
  unfold resetCalls at h
  split at h
  · refine ⟨‹_›, ?_⟩
    simp only [List.mem_cons, List.not_mem_nil, or_false] at h
    rcases h with rfl | rfl | rfl | rfl | rfl | rfl <;> simp
  · cases h

theorem mem_showCalls {c : Cfg} {call : TransportCall} (h : call ∈ showCalls c) :
    (∃ b, call = .cmd b) ∨ ∃ p < c.PAGES, call = .dataFb p := by
  obtain ⟨p, hp, h⟩ := List.mem_flatMap.1 h
  simp only [pageCalls, List.mem_cons, List.not_mem_nil, or_false] at h
  rcases h with rfl | rfl | rfl | rfl
  · exact .inl ⟨_, rfl⟩
  · exact .inl ⟨_, rfl⟩
  · exact .inl ⟨_, rfl⟩
  · exact .inr ⟨p, List.mem_range.1 hp, rfl⟩

theorem mem_initCalls {c : Cfg} {call : TransportCall} (h : call ∈ initCalls c) :
    call ∈ resetCalls c ∨ call = .fillFb false ∨ (∃ b, call = .cmd b) ∨ call ∈ showCalls c := by
  simp only [initCalls, List.mem_append, List.mem_cons, List.not_mem_nil, or_false] at h
  rcases h with (h | h | h) | h
  · exact .inl h
  · exact .inr (.inl h)
  · exact .inr (.inr (.inl ⟨_, h⟩))
  · exact .inr (.inr (.inr h))

theorem resetCalls_legal {c : Cfg} {call : TransportCall} (h : call ∈ resetCalls c) : callLegal c call := by
  obtain ⟨hres, ⟨lv, rfl⟩ | ⟨ms, rfl⟩⟩ := mem_resetCalls h
  · exact hres
  · trivial

theorem showCalls_legal {c : Cfg} {call : TransportCall} (h : call ∈ showCalls c) : callLegal c call := by
  obtain ⟨b, rfl⟩ | ⟨p, hp, rfl⟩ := mem_showCalls h
  · trivial
  · exact hp

/-- The calls of an operation whose operand is legal are legal (rules R62, R180). -/
theorem opCalls_legal {i : Instr} {s : State} (ho : operandLegal i s = true) :
    ∀ call ∈ opCalls i s, callLegal s.cfg call := by
  intro call hc
  cases i with
  | reset => exact resetCalls_legal hc
  | showPages => exact showCalls_legal hc
  | init =>
    obtain h | rfl | ⟨b, rfl⟩ | h := mem_initCalls hc
    · exact resetCalls_legal h
    · trivial
    · trivial
    · exact showCalls_legal h
  | fbWrite v =>
    obtain rfl := List.mem_singleton.1 hc
    simpa [operandLegal, WellFormed, callLegal] using ho
  | fbRead =>
    obtain rfl := List.mem_singleton.1 hc
    simpa [operandLegal, WellFormed, callLegal] using ho
  | poweron | poweroff | sleep _ | invert _ | fill _ | writeCmd _ | writeData =>
    obtain rfl := List.mem_singleton.1 hc
    trivial
  | contrast level =>
    simp only [opCalls, List.mem_cons, List.not_mem_nil, or_false] at hc
    rcases hc with rfl | rfl <;> trivial
  | setLowCol _ | setHighCol _ | setContrast _ | setNormInv _ | setDisp _ | setPage _ | dataByte _
  | i2cAddress _ | ctlOneCmd | ctlDataStream | ctlCmdStream | ctlOneData => cases hc

/-- A cycle keeps `TPC` among the calls: it advances only from a call that there is (rule R26). -/
theorem CycleStep.callsLegal {s t : State} (h : CycleStep s t) (hs : CallsLegal s) : CallsLegal t := by
  have hfr := h.frame
  unfold CallsLegal
  rw [hfr.tcl, hfr.cfg]
  refine ⟨?_, hs.2⟩
  cases h with
  | completes => exact hs.1
  | internal call hc =>
    obtain ⟨-, htpc, -⟩ := internalEffect_frame s call
    rw [callDone_tpc, htpc]
    exact (List.getElem?_eq_some_iff.1 hc).1
  | sent call a hc =>
    have ht := (succeed_frame a s).tpc
    obtain ⟨-, h⟩ | ⟨-, h⟩ := advance_cases (expansion s call).length (succeed s a) <;> rw [h]
    · simpa [atBpc, ht] using hs.1
    · rw [callDone_tpc, ht]
      exact (List.getElem?_eq_some_iff.1 hc).1
  | failed call a c n => simpa [(performFailed_frame a n _).tpc] using hs.1

/-! ## The invariant is kept -/

theorem seqStep_inv (s : State) (hb : s.busy = true) (h : Inv s) : Inv (seqStep s) := by
  have hc := seqStep_cycle s
  have hfr := hc.frame
  have hcalls : CallsLegal s := h.calls hb
  have hlive : s.dead = false := Bool.eq_false_iff.2 fun hd => by
    have hidle := (h.deadQuiet hd).1
    cases hb.symm.trans hidle
  refine .of_parts ?_ ?_ ?_ (fun _ => hc.callsLegal hcalls) (hc.hstatLegal h.hstat)
    (hc.linesExist hcalls h.linesExist) (fun hd => ?_)
  · rw [hfr.cfg]; exact hc.fbFormed hcalls h.fbFormed
  · rw [hfr.par]; exact hc.keeps.pram h.resetPramFormed h.pramFormed
  · rw [hfr.par]; exact h.resetPramFormed
  · rw [hfr.dead, hlive] at hd; cases hd

theorem IdleMove.inv {s t : State} (hm : IdleMove s t) (hb : s.busy = false) (h : Inv s) : Inv t := by
  obtain ⟨heq, hrx⟩ := hm
  have hram : PramFormed s.par t.panel.pram := hrx.pram h.resetPramFormed h.pramFormed
  rw [heq]
  refine .of_parts h.fbFormed hram h.resetPramFormed (fun hb' => ?_) h.hstat ?_ h.deadQuiet
  · cases hb.symm.trans hb'
  · exact ⟨h.noRes, h.noDc, h.noCs⟩

theorem begun_inv {i : Instr} {s : State} (hd : s.dead = false) (ho : operandLegal i s = true) (h : Inv s) :
    Inv (begun i s) := by
  refine .of_parts ?_ ?_ ?_ (fun _ => ?_) ?_ ?_ (fun hd' => ?_)
  · simpa using h.fbFormed
  · simpa using (begun_keeps i s).pram h.resetPramFormed h.pramFormed
  · simpa using h.resetPramFormed
  · exact ⟨by simp, by simpa using opCalls_legal ho⟩
  · simpa using h.hstat
  · simpa using h.linesExist
  · simp [hd] at hd'

/-- Settles O50: a cycle, an idle move and the start of an accepted operation each keep the invariant, and a
step is made of these. -/
theorem invariantIsKeptByEveryStep : Obligations.InvariantIsKeptByEveryStep := by
  unfold Obligations.InvariantIsKeptByEveryStep
  intro s t h hstep
  cases step_cases hstep with
  | cycle hb => exact seqStep_inv s hb h
  | move _ hb hm => exact hm.inv hb h
  | operation i u hb hd hm _ ho =>
    have hdead : u.dead = false := by rw [hm.eq]; exact hd
    exact runToIdle_induct seqStep_inv _ (begun_inv hdead ho (hm.inv hb h))

/-! ## After construction -/

theorem constructionHstat_legal (c : Cfg) : hstatLegal (constructionHstat c) := by
  unfold constructionHstat
  cases constructionCause c with
  | none => exact hstatLegal_ok 0
  | some cause => exact hstatLegal_of_kind (by decide) (by decide) cause 0 0

/-- Settles O49. -/
theorem invariantHoldsAfterConstruction : Obligations.InvariantHoldsAfterConstruction := by
  unfold Obligations.InvariantHoldsAfterConstruction
  intro c p u hwf hin
  exact .of_parts ⟨rfl, fun _ h => nomatch h⟩ (.nil p) ⟨hwf, hin⟩ (fun h => nomatch h)
    (constructionHstat_legal c) ⟨fun _ => rfl, fun _ => rfl, fun _ => rfl⟩ (fun _ => ⟨rfl, rfl⟩)

/-- Settles O9. -/
theorem resetStateIsAConstruction : Obligations.ResetStateIsAConstruction := by
  unfold Obligations.ResetStateIsAConstruction
  decide

/-- Settles O48: the reset state is a construction, whose `PANEL_RESET` lists no display-memory byte. -/
theorem invariantHoldsAtReset : Obligations.InvariantHoldsAtReset := by
  unfold Obligations.InvariantHoldsAtReset
  rw [resetStateIsAConstruction.1]
  exact invariantHoldsAfterConstruction _ _ _ rfl fun _ h => nomatch h

end Sys2Proof.Machine

/-! What a step and an instruction keep: the configuration, the latches, the lines, and what an instruction does
not write (rules R21 to R24, R28 to R33, R35, R66, R70). -/

namespace Sys2Proof.Machine

/-! ## The configuration -/

theorem IdleMove.config {s t : State} (h : IdleMove s t) : t.cfg = s.cfg ∧ t.par = s.par := by
  rw [h.eq]
  exact ⟨rfl, rfl⟩

/-- Settles O51. -/
theorem configurationNeverChanges : Obligations.ConfigurationNeverChanges := by
  unfold Obligations.ConfigurationNeverChanges
  intro s t h
  cases step_cases h with
  | cycle => exact ⟨(seqStep_frame s).cfg, (seqStep_frame s).par⟩
  | move _ _ hm => exact hm.config
  | operation i u _ _ hm =>
    have hf := runToIdle_frame (begun i u)
    simpa [hf.cfg, hf.par] using hm.config

/-! ## A dead block -/

/-- Settles O10: a dead idle block has no step but an idle move. -/
theorem deadBlockRefusesAndEmitsNothing : Obligations.DeadBlockRefusesAndEmitsNothing := by
  unfold Obligations.DeadBlockRefusesAndEmitsNothing
  refine ⟨fun c p u => ?_, fun i s hi hb hd => ?_, fun s t hd hb h => ?_⟩
  · simp [construct, Option.isSome_iff_ne_none]
  · rw [exec_hostOp i s hi]
    exact hostOp_refused _ _ _ _ s hb (.inl hd)
  · cases step_cases h with
    | cycle hb' => cases hb.symm.trans hb'
    | move _ _ hm => rw [hm.eq]; exact ⟨hd, hb, rfl⟩
    | operation _ _ _ hd' => cases hd.symm.trans hd'

/-! ## The latches -/

/-- `INIT_DONE`, `REFUSED` and `DEAD` from one state to a later one (rules R30 to R32). -/
structure LatchesKept (s t : State) : Prop where
  initDone : s.initDone = true → t.initDone = true
  refused : s.refused = true → t.refused = true
  dead : t.dead = s.dead
  /-- only an INIT that has completed without error sets `INIT_DONE` -/
  byInit : s.initDone = false → t.initDone = true → t.hstat = 0x00000800 ∧ t.busy = false

/-- A state in which `INIT_DONE` is as before. -/
theorem LatchesKept.of_initDone_eq {s t : State} (hi : t.initDone = s.initDone)
    (hr : s.refused = true → t.refused = true) (hd : t.dead = s.dead) : LatchesKept s t where
  initDone h := hi.trans h
  refused := hr
  dead := hd
  byInit h h' := by cases (hi.trans h).symm.trans h'

/-- A state in which the operation goes on has set no latch by an INIT. -/
theorem LatchesKept.trans_busy {s t u : State} (h : LatchesKept s t) (hb : t.busy = true)
    (h' : LatchesKept t u) : LatchesKept s u where
  initDone := h'.initDone ∘ h.initDone
  refused := h'.refused ∘ h.refused
  dead := h'.dead.trans h.dead
  byInit hs hu := by
    cases ht : t.initDone with
    | true =>
      obtain ⟨-, hidle⟩ := h.byInit hs ht
      cases hidle.symm.trans hb
    | false => exact h'.byInit ht hu

theorem complete_latches (s : State) : LatchesKept s (complete s) where
  initDone h := by simp [h]
  refused := id
  dead := rfl
  byInit h h' := by
    have hop : curOp s = 0x08 := by simpa [h] using h'
    rw [complete_hstat, hop]
    exact ⟨by decide, rfl⟩

theorem CycleStep.latches {s t : State} (h : CycleStep s t) : LatchesKept s t := by
  have hr := h.keeps.refused
  have hd := h.frame.dead
  cases h with
  | completes => exact complete_latches s
  | internal call => exact .of_initDone_eq (internalEffect_frame s call).1.initDone hr hd
  | sent call a =>
    exact .of_initDone_eq ((succeed_frame a s).call.trans (advance_frame _ _)).initDone hr hd
  | failed call a c n =>
    exact .of_initDone_eq ((takeAnswer_frame s).trans (performFailed_frame a n _)).initDone hr hd

theorem IdleMove.latches {s t : State} (h : IdleMove s t) : LatchesKept s t :=
  .of_initDone_eq (by rw [h.eq]) h.rx.refused (by rw [h.eq])

/-- Settles O52: the latches are kept up to a busy state, and by the cycle that follows it. -/
theorem latchesAreNeverCleared : Obligations.LatchesAreNeverCleared := by
  unfold Obligations.LatchesAreNeverCleared
  intro s t h
  have key : LatchesKept s t := by
    cases step_cases h with
    | cycle => exact (seqStep_cycle s).latches
    | move _ _ hm => exact hm.latches
    | operation i u _ _ hm =>
      have hinit : (begun i u).initDone = s.initDone := by rw [begun_initDone, hm.eq]
      have hbegun : LatchesKept s (begun i u) :=
        .of_initDone_eq hinit ((begun_keeps i u).refused ∘ hm.rx.refused)
          ((begun_dead i u).trans hm.latches.dead)
      exact runToIdle_induct (P := LatchesKept s)
        (fun v hb hv => hv.trans_busy hb (seqStep_cycle v).latches) _ hbegun
  exact ⟨key.initDone, key.refused, key.dead, key.byInit⟩

/-! ## The lines -/

theorem drivenBy_append (acts acts' : List BusAction) (line : Line) (lv : Level) :
    drivenBy (acts ++ acts') line lv = drivenBy acts' line (drivenBy acts line lv) := by
  simp [drivenBy]

/-- From one state to a later one the wire trace has grown by `acts`, and the lines are where its `PIN` actions
put them (rules R33, R66, R70). -/
structure Follows (acts : List BusAction) (s t : State) : Prop where
  trace : t.trace = s.trace ++ acts
  res : t.lineRes = drivenBy acts .res s.lineRes
  dc : t.lineDc = drivenBy acts .dc s.lineDc
  cs : t.lineCs = drivenBy acts .cs s.lineCs

theorem Follows.trans {acts acts' : List BusAction} {s t u : State} (h : Follows acts s t)
    (h' : Follows acts' t u) : Follows (acts ++ acts') s u where
  trace := by rw [h'.trace, h.trace, List.append_assoc]
  res := by rw [h'.res, h.res, drivenBy_append]
  dc := by rw [h'.dc, h.dc, drivenBy_append]
  cs := by rw [h'.cs, h.cs, drivenBy_append]

/-- A state with the same wire trace and the same lines. -/
theorem Follows.of_eq {s t : State} (ht : t.trace = s.trace) (hres : t.lineRes = s.lineRes)
    (hdc : t.lineDc = s.lineDc) (hcs : t.lineCs = s.lineCs) : Follows [] s t :=
  ⟨by simp [ht], hres, hdc, hcs⟩

/-- What one bus action makes of a line is what the claim says of it. -/
theorem blockWires_lines (a : BusAction) (w : Wires) :
    (blockWires a w).lineRes = drivenBy [a] .res w.lineRes ∧
      (blockWires a w).lineDc = drivenBy [a] .dc w.lineDc ∧
      (blockWires a w).lineCs = drivenBy [a] .cs w.lineCs := by
  cases a with
  | pin line lv => cases line <;> cases lv <;> simp [blockWires, drivenBy, levelOf]
  | wait _ | i2cTxn _ | spiCfg _ | spiXfer _ => simp [blockWires, drivenBy]

theorem succeed_follows (a : BusAction) (s : State) : Follows [a] s (succeed s a) := by
  have hw := succeed_wires a s
  obtain ⟨hres, hdc, hcs⟩ := blockWires_lines a s.wires
  rw [← hw] at hres hdc hcs
  exact ⟨succeed_trace a s, hres, hdc, hcs⟩

theorem performFailed_follows {a : BusAction} (hf : a.fallible = true) (n : Nat) (s : State) :
    Follows [a] s (performFailed a n s) := by
  obtain ⟨hres, hdc, hcs⟩ := performFailed_lines hf n s
  have quiet (line : Line) (lv : Level) : drivenBy [a] line lv = lv := by
    cases a with
    | pin _ _ => cases hf
    | wait _ | i2cTxn _ | spiCfg _ | spiXfer _ => simp [drivenBy]
  exact ⟨performFailed_trace a n s, by rw [quiet, hres], by rw [quiet, hdc], by rw [quiet, hcs]⟩

theorem CycleStep.follows {s t : State} (h : CycleStep s t) : ∃ acts, Follows acts s t := by
  cases h with
  | completes => exact ⟨[], .of_eq rfl rfl rfl rfl⟩
  | internal call =>
    obtain ⟨-, -, htr, -, -, hw, -⟩ := internalEffect_frame s call
    exact ⟨[], .of_eq htr (congrArg Wires.lineRes hw) (congrArg Wires.lineDc hw) (congrArg Wires.lineCs hw)⟩
  | sent call a =>
    have hw := advance_wires (expansion s call).length (succeed s a)
    exact ⟨_, (succeed_follows a s).trans (.of_eq (advance_trace _ _) (congrArg Wires.lineRes hw)
      (congrArg Wires.lineDc hw) (congrArg Wires.lineCs hw))⟩
  | failed call a c n _ _ hf =>
    have htake : Follows [] s (takeAnswer s) := .of_eq (by simp) (by simp) (by simp) (by simp)
    exact ⟨_, (htake.trans (performFailed_follows hf n _)).trans (.of_eq rfl rfl rfl rfl)⟩

theorem IdleMove.follows {s t : State} (h : IdleMove s t) : Follows [] s t := by
  rw [h.eq]
  exact .of_eq rfl rfl rfl rfl

theorem begun_follows (i : Instr) (s : State) : Follows [] s (begun i s) := by
  have hw := begun_wires i s
  exact .of_eq (begun_trace i s) (congrArg Wires.lineRes hw) (congrArg Wires.lineDc hw)
    (congrArg Wires.lineCs hw)

/-- Settles O53: each cycle follows its own bus action, and a step is a sequence of cycles. -/
theorem linesFollowTheWireTrace : Obligations.LinesFollowTheWireTrace := by
  unfold Obligations.LinesFollowTheWireTrace
  intro s t h
  have key : ∃ acts, Follows acts s t := by
    cases step_cases h with
    | cycle => exact (seqStep_cycle s).follows
    | move _ _ hm => exact ⟨_, hm.follows⟩
    | operation i u _ _ hm =>
      refine runToIdle_induct (P := fun v => ∃ acts, Follows acts s v) (fun v _ hv => ?_) _
        ⟨_, hm.follows.trans (begun_follows i u)⟩
      obtain ⟨acts, hv⟩ := hv
      obtain ⟨acts', hstep⟩ := (seqStep_cycle v).follows
      exact ⟨_, hv.trans hstep⟩
  obtain ⟨acts, hf⟩ := key
  exact ⟨acts, hf.trace, hf.res, hf.dc, hf.cs⟩

/-! ## What an instruction does not write -/

/-- What a cycle keeps that starts in the operation that `s` has begun, the whole operation keeps. -/
theorem runToIdle_keeps {α : Type} (f : State → α) (s : State)
    (hk : ∀ u, CycleFrame s u → f (seqStep u) = f u) : f (runToIdle s) = f s := by
  refine (runToIdle_induct (P := fun u => CycleFrame s u ∧ f u = f s) (fun u _ h => ?_) s ⟨.rfl' s, rfl⟩).2
  obtain ⟨hfr, hu⟩ := h
  exact ⟨hfr.trans (seqStep_frame u), (hk u hfr).trans hu⟩

/-- A part of the block that neither the start of the operation nor one of its cycles writes, the instruction
does not write. -/
theorem exec_keeps {α : Type} (f : State → α) {i : Instr} {s t : State} (h : exec i s = .next t)
    (hpanel : ∀ u r, f (State.setRx u r) = f u) (hbegin : f (begun i s) = f s)
    (hcycle : isHostOp i = true → ∀ u, CycleFrame (begun i s) u → f (seqStep u) = f u) : f t = f s := by
  cases hi : isHostOp i with
  | false =>
    obtain ⟨r, hr, -⟩ := exec_panelUnit i s hi
    cases hr.symm.trans h
    exact hpanel s r
  | true =>
    obtain ⟨-, ⟨-, rfl⟩ | ⟨-, -, rfl⟩⟩ := exec_hostOp_cases hi h
    · exact hpanel s { s.rx with refused := true }
    · exact (runToIdle_keeps f _ (hcycle hi)).trans hbegin

/-- No instruction writes the host's operand registers, the configuration, `DEAD` or the inputs. -/
theorem exec_sameHost {i : Instr} {s t : State} (h : exec i s = .next t) : sameHost s t := by
  cases hi : isHostOp i with
  | false =>
    obtain ⟨r, hr, -⟩ := exec_panelUnit i s hi
    cases hr.symm.trans h
    exact .rfl' s
  | true =>
    obtain ⟨-, ⟨-, rfl⟩ | ⟨-, -, rfl⟩⟩ := exec_hostOp_cases hi h
    · exact .rfl' s
    · exact (begun_sameHost i s).trans (runToIdle_frame _).host

/-- A cycle writes `HRES` only by an FBR. -/
theorem CycleStep.hres {s t : State} (h : CycleStep s t)
    (hk : ∀ call ∈ s.tcl, (internalEffect s call).hres = s.hres) : t.hres = s.hres := by
  cases h with
  | completes => rfl
  | internal call hc => exact hk call (List.mem_of_getElem? hc)
  | sent call a => simp [(succeed_frame a s).hres]
  | failed call a c n => simp [(performFailed_frame a n _).hres]

/-- A cycle writes the framebuffer only by a FILLFB or an FBW. -/
theorem CycleStep.fb {s t : State} (h : CycleStep s t)
    (hk : ∀ call ∈ s.tcl, (internalEffect s call).fb = s.fb) : t.fb = s.fb := by
  cases h with
  | completes => rfl
  | internal call hc => exact hk call (List.mem_of_getElem? hc)
  | sent call a => simp [(succeed_frame a s).fb]
  | failed call a c n => simp [(performFailed_frame a n _).fb]

/-- A cycle of another operation than INIT does not set `INIT_DONE`. -/
theorem CycleStep.initDone {s t : State} (h : CycleStep s t) (hop : curOp s ≠ 0x08) :
    t.initDone = s.initDone := by
  cases h with
  | completes => simpa using fun he => absurd he hop
  | internal call => exact (internalEffect_frame s call).1.initDone
  | sent call a => exact ((succeed_frame a s).call.trans (advance_frame _ _)).initDone
  | failed call a c n => exact ((takeAnswer_frame s).trans (performFailed_frame a n _)).initDone

/-- The opcodes of the five operations of rule R29. -/
def lifecycleOps : List Byte := [0x01, 0x02, 0x03, 0x04, 0x08]

theorem completedLifecycle_other (s : State) (h : curOp s ∉ lifecycleOps) :
    completedLifecycle s = s.lifecycle := by
  have hne (n : Nat) (hn : BitVec.ofNat 8 n ∈ lifecycleOps) : (curOp s).toNat ≠ n := by
    rintro rfl
    exact h (by simpa using hn)
  unfold completedLifecycle
  split
  · exact absurd ‹_› (hne 1 (by decide))
  · exact absurd ‹_› (hne 2 (by decide))
  · exact absurd ‹_› (hne 3 (by decide))
  · exact absurd ‹_› (hne 4 (by decide))
  · rfl

theorem callDone_lifecycle_other (s : State) (h : curOp s ∉ lifecycleOps) :
    (callDone s).lifecycle = s.lifecycle := by
  have hne : curOp s ≠ 0x08 := by
    intro he
    exact h (by rw [he]; decide)
  rw [callDone_lifecycle, progressLifecycle, if_neg hne]

theorem advance_lifecycle_other (n : Nat) (s : State) (h : curOp s ∉ lifecycleOps) :
    (advance n s).lifecycle = s.lifecycle := by
  obtain ⟨-, he⟩ | ⟨-, he⟩ := advance_cases n s <;> rw [he]
  · rfl
  · exact callDone_lifecycle_other s h

/-- A cycle of an operation that is none of the five of rule R29 does not write `LIFECYCLE`. -/
theorem CycleStep.lifecycle {s t : State} (h : CycleStep s t) (hop : curOp s ∉ lifecycleOps) :
    t.lifecycle = s.lifecycle := by
  cases h with
  | completes => exact completedLifecycle_other s hop
  | internal call =>
    obtain ⟨hfr, -, -, -, -, -, hl⟩ := internalEffect_frame s call
    rw [callDone_lifecycle_other _ (by simpa [curOp, hfr.cur] using hop), hl]
  | sent call a =>
    have hfr := succeed_frame a s
    rw [advance_lifecycle_other _ _ (by simpa [curOp, hfr.cur] using hop), hfr.lifecycle]
  | failed call a c n => simp [(performFailed_frame a n _).lifecycle]

/-- A call without FB access keeps the framebuffer and `HRES`. -/
theorem internalEffect_noFb {call : TransportCall} (h : noFb call = true) (s : State) :
    internalEffect s call = s := by
  cases call with
  | cmd _ | data _ | dataFb _ | res _ | wait _ => rfl
  | fillFb _ | fbw _ _ | fbr _ => cases h

theorem resetCalls_noFb {c : Cfg} {call : TransportCall} (h : call ∈ resetCalls c) : noFb call = true := by
  obtain ⟨-, ⟨lv, rfl⟩ | ⟨ms, rfl⟩⟩ := mem_resetCalls h <;> rfl

theorem showCalls_noFb {c : Cfg} {call : TransportCall} (h : call ∈ showCalls c) : noFb call = true := by
  obtain ⟨b, rfl⟩ | ⟨p, -, rfl⟩ := mem_showCalls h <;> rfl

/-- The calls of an operation other than INIT, FILL, FB_WRITE and FB_READ have no FB access. -/
theorem opCalls_noFb {i : Instr} (hinit : i ≠ .init) (hfill : ∀ v, i ≠ .fill v)
    (hwrite : ∀ v, i ≠ .fbWrite v) (hread : i ≠ .fbRead) (s : State) : ∀ call ∈ opCalls i s, noFb call = true := by
  intro call hc
  cases i with
  | init => exact absurd rfl hinit
  | fill v => exact absurd rfl (hfill v)
  | fbWrite v => exact absurd rfl (hwrite v)
  | fbRead => exact absurd rfl hread
  | reset => exact resetCalls_noFb hc
  | showPages => exact showCalls_noFb hc
  | poweron | poweroff | sleep _ | invert _ | writeCmd _ | writeData =>
    obtain rfl := List.mem_singleton.1 hc
    rfl
  | contrast level =>
    simp only [opCalls, List.mem_cons, List.not_mem_nil, or_false] at hc
    rcases hc with rfl | rfl <;> rfl
  | setLowCol _ | setHighCol _ | setContrast _ | setNormInv _ | setDisp _ | setPage _ | dataByte _
  | i2cAddress _ | ctlOneCmd | ctlDataStream | ctlCmdStream | ctlOneData => cases hc

/-- The calls of an operation other than FB_READ do not write `HRES`. -/
theorem opCalls_hres {i : Instr} (hread : i ≠ .fbRead) (s : State) :
    ∀ call ∈ opCalls i s, ∀ u, (internalEffect u call).hres = u.hres := by
  intro call hc u
  by_cases hother : i = .init ∨ (∃ v, i = .fill v) ∨ ∃ v, i = .fbWrite v
  · rcases hother with rfl | ⟨v, rfl⟩ | ⟨v, rfl⟩
    · obtain h | rfl | ⟨b, rfl⟩ | h := mem_initCalls hc
      · rw [internalEffect_noFb (resetCalls_noFb h)]
      · rfl
      · rfl
      · rw [internalEffect_noFb (showCalls_noFb h)]
    · obtain rfl := List.mem_singleton.1 hc; rfl
    · obtain rfl := List.mem_singleton.1 hc; rfl
  · simp only [not_or, not_exists] at hother
    obtain ⟨hinit, hfill, hwrite⟩ := hother
    rw [internalEffect_noFb (opCalls_noFb hinit hfill hwrite hread s call hc)]

/-- The calls of an operation other than INIT, FILL and FB_WRITE do not write the framebuffer. -/
theorem opCalls_fb {i : Instr} (hinit : i ≠ .init) (hfill : ∀ v, i ≠ .fill v)
    (hwrite : ∀ v, i ≠ .fbWrite v) (s : State) : ∀ call ∈ opCalls i s, ∀ u, (internalEffect u call).fb = u.fb := by
  intro call hc u
  by_cases hread : i = .fbRead
  · subst hread
    obtain rfl := List.mem_singleton.1 hc
    rfl
  · rw [internalEffect_noFb (opCalls_noFb hinit hfill hwrite hread s call hc)]

theorem opcodeOf_ne_init {i : Instr} (h : i ≠ .init) : opcodeOf i ≠ 0x08 := by
  cases i with
  | init => exact absurd rfl h
  | _ => simp [opcodeOf, encode]

theorem opcodeOf_not_lifecycle {i : Instr} (hinit : i ≠ .init) (hreset : i ≠ .reset) (hon : i ≠ .poweron)
    (hoff : i ≠ .poweroff) (hsleep : ∀ v, i ≠ .sleep v) : opcodeOf i ∉ lifecycleOps := by
  cases i with
  | init => exact absurd rfl hinit
  | reset => exact absurd rfl hreset
  | poweron => exact absurd rfl hon
  | poweroff => exact absurd rfl hoff
  | sleep v => exact absurd rfl (hsleep v)
  | _ => simp [opcodeOf, encode, lifecycleOps]

/-- In a cycle of an operation the latched opcode is the operation's own. -/
theorem CycleFrame.curOp_begun {i : Instr} {s u : State} (h : CycleFrame (begun i s) u)
    (hi : isHostOp i = true) : curOp u = opcodeOf i := by
  rw [← begun_curOp hi s, curOp, curOp, h.cur]

/-- Settles O58: the parts of the state one by one, each kept by every cycle of the instruction. -/
theorem instructionsKeepWhatTheyDoNotWrite : Obligations.InstructionsKeepWhatTheyDoNotWrite := by
  unfold Obligations.InstructionsKeepWhatTheyDoNotWrite
  intro i s t h
  refine ⟨exec_sameHost h, fun hread => ?_, fun hinit hfill hwrite k => ?_, fun hinit => ?_,
    fun hinit hreset hon hoff hsleep => ?_, fun hi => ?_⟩
  · refine exec_keeps State.hres h (fun _ _ => rfl) (by simp) fun _ u hu => (seqStep_cycle u).hres ?_
    intro call hc
    exact opCalls_hres hread s call (by simpa [hu.tcl] using hc) u
  · have hfb : t.fb = s.fb := by
      refine exec_keeps State.fb h (fun _ _ => rfl) (by simp) fun _ u hu => (seqStep_cycle u).fb ?_
      intro call hc
      exact opCalls_fb hinit hfill hwrite s call (by simpa [hu.tcl] using hc) u
    rw [fbByte, fbByte, hfb]
  · refine exec_keeps State.initDone h (fun _ _ => rfl) (by simp) fun hi u hu =>
      (seqStep_cycle u).initDone ?_
    rw [hu.curOp_begun hi]
    exact opcodeOf_ne_init hinit
  · refine exec_keeps State.lifecycle h (fun _ _ => rfl) (by rw [begun_of_ne_init hinit]; rfl) fun hi u hu =>
      (seqStep_cycle u).lifecycle ?_
    rw [hu.curOp_begun hi]
    exact opcodeOf_not_lifecycle hinit hreset hon hoff hsleep
  · obtain ⟨r, hr, hk⟩ := exec_panelUnit i s hi
    cases hr.symm.trans h
    exact ⟨rfl, hk.phase⟩

end Sys2Proof.Machine

/-! The other inputs of a step, and the state after construction (rules R21 to R23, R34, R49, R98, R120, R232 to
R235, R303, R310). -/

namespace Sys2Proof.Machine

/-! ## The other inputs -/

theorem step_of_goes {s t : State} (h : fetch s = .goes t) : step s = .next t := by
  rw [step, h]

/-- A step that runs no instruction, from the input it takes. -/
theorem step_of_input {s t : State} {input : Input} {rest : List Input} (hb : s.busy = false)
    (hi : s.inputs = input :: rest) (h : fetchInput input { s with inputs := rest } = .goes t) :
    step s = .next t := by
  refine step_of_goes ?_
  rw [fetch, if_neg (by simp [hb]), hi]
  exact h

/-- Bytes left over are the next input. -/
theorem leave_eq (f : WireFormat) (left : List Byte) (s : State) :
    leave f left s = { s with inputs := if left = [] then s.inputs else .wire f left :: s.inputs } := by
  cases left <;> rfl

/-- A command byte while a contrast value is awaited is that value (rule R98). -/
theorem fetchWire_awaited (b : Byte) (left : List Byte) (s : State) (hp : s.panel.cpend = true) :
    fetchWire .cmd (b :: left) s = .goes (leave .cmd left (s.setRx (deliverCmd s.wires b s.rx))) := by
  simp [fetchWire, hp]

/-- A byte that decodes to no instruction, in another place than that of a command, reaches the panel as it is. -/
theorem fetchWire_undecoded {f : WireFormat} (hf : f ≠ .cmd) {b : Byte} {left : List Byte} {e : DecodeError}
    (he : decodeWire f (b :: left) = .error e) (s : State) :
    fetchWire f (b :: left) s = .goes (leave f left (undecoded f b s)) := by
  simp [fetchWire, hf, he]

/-- An address byte that asks to read selects no panel (rule R232). -/
theorem selectsPanel_read (w : Wires) {b : Byte} (h : b.getLsbD 0 = true) : selectsPanel w b = false := by
  simp only [selectsPanel, h, Bool.not_true, Bool.and_false]

/-- The address byte of a transaction for another device changes the frame handler alone (rule R235). -/
theorem i2cStart_other (w : Wires) (b : Byte) (r : Rx) (hb : w.cfg.bus = .i2c)
    (ha : r.panel.standing ≠ .abandoned) (hs : selectsPanel w b = false) :
    i2cStart w b r = r.onPanel (Panel.setFh .dropped) := by
  simp [i2cStart, hb, ha, hs]

/-- External means put a panel in `PANEL_RESET`, but for one no longer modelled, which is drawn (rule R303). -/
theorem panelReset_spec (w : Wires) (r : Rx) :
    (r.panelReset w).refused = r.refused ∧
      (r.panel.standing ≠ .abandoned → inPanelReset w.par (r.panelReset w).panel) ∧
      (r.panel.standing = .abandoned → (r.panelReset w).panel.standing = .abandoned ∧
        drawnAt w.cfg ((r.panelReset w).draws - 1) (r.panelReset w).panel) := by
  by_cases ha : r.panel.standing = .abandoned
  · have hr : r.panelReset w = (r.redraw w.cfg).onPanel fun p => { p with phase := .idle } := by
      simp [Rx.panelReset, ha]
    rw [hr]
    exact ⟨rfl, fun h => absurd ha h, fun _ => ⟨ha, rfl, rfl, rfl, rfl, rfl, rfl, rfl, rfl, rfl⟩⟩
  · unfold Rx.panelReset
    rw [if_neg ha]
    refine ⟨rfl, fun _ => ⟨rfl, ?_, ?_, ?_, ?_, ?_, rfl, rfl, rfl, rfl⟩, fun h => absurd h ha⟩ <;>
      (intro v hv; simp [hv])

theorem i2cStop_eq (s : State) :
    s.setRx (i2cStop s.rx) = { s with
      panel := { s.panel with fh := if s.panel.standing.known = true then .dropped else s.panel.fh } } := by
  unfold i2cStop
  rw [rx_panel]
  cases s.panel.standing.known <;> rfl

/-- Settles O6: one input after the other, each by what `fetchInput` makes of it. -/
theorem stepTakesTheOtherInputs : Obligations.StepTakesTheOtherInputs := by
  unfold Obligations.StepTakesTheOtherInputs
  intro s rest
  refine ⟨fun hb => ⟨step_of_goes (if_pos hb), (seqStep_frame s).inputs⟩, fun hb => ?_⟩
  refine ⟨fun hi => step_of_goes ?_, fun w hi => step_of_input hb hi rfl, fun a hi => step_of_input hb hi rfl,
    fun l hi => step_of_input hb hi rfl, fun m hi => step_of_input hb hi rfl, fun hi hw => step_of_input hb hi ?_,
    fun hi => ?_, fun hi => step_of_input hb hi ?_, fun f hi => step_of_input hb hi rfl, fun b left => ⟨?_, ?_, ?_⟩⟩
  · simp [fetch, hb, hi]
  · simp [fetchInput, fetchSubmit, hw, refuse]
  · obtain ⟨hrefused, hknown, habandoned⟩ := panelReset_spec s.wires s.rx
    refine ⟨_, step_of_input hb hi rfl, ?_, hknown, habandoned⟩
    exact congrArg (fun v => { s with
      inputs := rest, panel := (s.rx.panelReset s.wires).panel, refused := v,
      draws := (s.rx.panelReset s.wires).draws }) hrefused
  · exact congrArg Fetched.goes (i2cStop_eq { s with inputs := rest })
  · intro hi hp
    refine step_of_input hb hi ?_
    exact (fetchWire_awaited b left { s with inputs := rest } hp).trans (congrArg Fetched.goes (leave_eq ..))
  · intro hi hread hbus ha
    refine step_of_input hb hi ?_
    have he : decodeWire .addr (b :: left) = .error .readDirection := by simp only [decodeWire, hread, if_true]
    refine (fetchWire_undecoded (by decide) he { s with inputs := rest }).trans (congrArg Fetched.goes ?_)
    rw [leave_eq, undecoded, i2cStart_other _ _ _ hbus ha (selectsPanel_read _ hread)]
    rfl
  · intro hi hres
    refine step_of_input hb hi ?_
    have hc : decodeControl b = none := if_pos hres
    have he : decodeWire .ctl (b :: left) = .error .reservedControl := by simp only [decodeWire, hc]
    refine (fetchWire_undecoded (by decide) he { s with inputs := rest }).trans (congrArg Fetched.goes ?_)
    rw [leave_eq]
    rfl

/-! ## The state after construction -/

/-- `HSTAT` of a failed construction: `KIND` 1 and the cause, every other field 0 (rules R27, R270). -/
theorem mkHstat_construction (cause : BitVec 2) :
    mkHstat kindConstruction cause 0 0 = 0#28 ++ cause ++ 1#2 := by
  revert cause
  decide

/-- Settles O7. -/
theorem constructionLeavesTheTableState : Obligations.ConstructionLeavesTheTableState := by
  unfold Obligations.ConstructionLeavesTheTableState
  intro c p u hlegal
  refine ⟨rfl, rfl, rfl, rfl, rfl, rfl, by simp [construct, hlegal], rfl, rfl, rfl, rfl, rfl, fun i => rfl,
    fun pg col => rfl, rfl, rfl, rfl, rfl, rfl, rfl, rfl, rfl, rfl, rfl, rfl, rfl, rfl, fun hc => ?_,
    fun cause hc => ?_⟩
  · simp only [construct, constructionHstat, hc, hlegal]
    decide
  · simp only [construct, constructionHstat, hc, mkHstat_construction]
    simp

end Sys2Proof.Machine

/-! The block cannot read the panel (rules R48, R144): what a cycle makes of the block's side depends on the
block's side alone, as long as the bus answers it takes are listed. -/

namespace Sys2Proof.Machine

/-! ## The block's side of a state -/

/-- A state with the panel's side and the bus mode struck out: what the block's side of it is. The bus mode goes
too, because a failed `SPI_CFG` leaves there a free value, whose number the panel's draws move (log 10). -/
def State.blockView (s : State) : State :=
  { s with panel := Panel.reset, refused := false, draws := 0, spiMode := blockMode s.cfg }

theorem blockView_callDone (s : State) : (callDone s).blockView = callDone s.blockView := rfl

theorem blockView_advance (n : Nat) (s : State) : (advance n s).blockView = advance n s.blockView := by
  unfold advance
  exact apply_ite State.blockView _ _ _

theorem blockView_abort (c : Cause) (s : State) : (abort c s).blockView = abort c s.blockView := rfl

theorem blockView_internalEffect (s : State) (call : TransportCall) :
    (internalEffect s call).blockView = internalEffect s.blockView call := by
  cases call <;> rfl

theorem blockView_perform (a : BusAction) (s : State) :
    (perform a s).blockView = (perform a s.blockView).blockView := by
  cases a with
  | pin line lv => cases line <;> rfl
  | wait _ | i2cTxn _ | spiCfg _ | spiXfer _ => rfl

theorem blockView_performFailed (a : BusAction) (n : Nat) (s : State) :
    (performFailed a n s).blockView = (performFailed a n s.blockView).blockView := by
  cases a <;> rfl

theorem blockView_takeAnswer (s : State) : (takeAnswer s).blockView = (takeAnswer s.blockView).blockView := by
  have h : s.blockView.answers = s.answers := rfl
  unfold takeAnswer
  rw [h]
  cases s.answers <;> rfl

/-- A listed answer does not depend on the panel's side. -/
theorem nextAnswer_blockView {s : State} (h : s.answers ≠ []) : nextAnswer s.blockView = nextAnswer s := by
  have ha : s.blockView.answers = s.answers := rfl
  unfold nextAnswer
  rw [ha]
  cases hs : s.answers with
  | nil => exact absurd hs h
  | cons r l => rfl

theorem blockView_busStep (a : BusAction) (n : Nat) (s : State) (h : a.fallible = true → s.answers ≠ []) :
    (busStep a n s).blockView = (busStep a n s.blockView).blockView := by
  unfold busStep
  cases hf : a.fallible with
  | false =>
    simp only [Bool.false_eq_true, if_false]
    rw [blockView_advance, blockView_advance, blockView_perform]
  | true =>
    simp only [if_true, nextAnswer_blockView (h hf)]
    cases admissible a (nextAnswer s) with
    | ok =>
      dsimp only
      rw [blockView_advance, blockView_advance, blockView_perform, blockView_perform a (takeAnswer s.blockView),
        blockView_takeAnswer]
    | err c k =>
      dsimp only
      rw [blockView_abort, blockView_abort, blockView_performFailed,
        blockView_performFailed a k (takeAnswer s.blockView), blockView_takeAnswer]

/-! ## The answers that an operation still needs -/

/-- The number of fallible bus actions that the operation in progress still has before it (rule R26). -/
def remainingLoad (s : State) : Nat :=
  match s.tcl[s.tpc]? with
  | none => 0
  | some call => fallibleCount ((expansion s call).drop s.bpc) + busLoad s.cfg (s.tcl.drop (s.tpc + 1))

theorem remainingLoad_of_call {s : State} {call : TransportCall} (h : s.tcl[s.tpc]? = some call) :
    remainingLoad s =
      fallibleCount ((expansion s call).drop s.bpc) + busLoad s.cfg (s.tcl.drop (s.tpc + 1)) := by
  simp [remainingLoad, h]

theorem remainingLoad_atBpc {s : State} {call : TransportCall} (h : s.tcl[s.tpc]? = some call) (j : Nat) :
    remainingLoad (atBpc s j) =
      fallibleCount ((expansion s call).drop j) + busLoad s.cfg (s.tcl.drop (s.tpc + 1)) := by
  rw [remainingLoad_of_call (s := atBpc s j) h, expansion_congr (s := s) (t := atBpc s j) rfl rfl]
  rfl

/-- At the start of a call all its bus actions are still to come. -/
theorem remainingLoad_of_bpc_zero {s : State} (h : s.bpc = 0) :
    remainingLoad s = busLoad s.cfg (s.tcl.drop s.tpc) := by
  cases hc : s.tcl[s.tpc]? with
  | none => rw [List.drop_eq_nil_of_le (List.getElem?_eq_none_iff.1 hc)]; simp [remainingLoad, hc, busLoad]
  | some call =>
    obtain ⟨hlt, hget⟩ := List.getElem?_eq_some_iff.1 hc
    rw [remainingLoad_of_call hc, List.drop_eq_getElem_cons hlt, hget, busLoad_cons, h, List.drop_zero,
      fallibleCount_expansion]

/-- The answers that the operation in progress still needs are listed. -/
def answersListed (s : State) : Prop := s.busy = true → remainingLoad s ≤ s.answers.length

/-- The bus action that comes next is counted. -/
theorem fallibleCount_drop {acts : List BusAction} {j : Nat} {a : BusAction} (h : acts[j]? = some a) :
    fallibleCount (acts.drop j) = fallibleCount (acts.drop (j + 1)) + if a.fallible then 1 else 0 := by
  obtain ⟨hlt, hget⟩ := List.getElem?_eq_some_iff.1 h
  rw [List.drop_eq_getElem_cons hlt, hget, fallibleCount, fallibleCount, List.countP_cons]

/-- A bus action that can fail finds its answer listed. -/
theorem answers_ne_nil {s : State} {call : TransportCall} {a : BusAction} (hb : s.busy = true)
    (hl : answersListed s) (hc : s.tcl[s.tpc]? = some call) (ha : (expansion s call)[s.bpc]? = some a)
    (hf : a.fallible = true) : s.answers ≠ [] := by
  intro hnil
  have h := hl hb
  rw [remainingLoad_of_call hc, fallibleCount_drop ha, if_pos hf, hnil] at h
  simp at h

/-- A call completed from a state with listed answers leaves the rest listed. -/
theorem answersListed_callDone {s : State}
    (h : busLoad s.cfg (s.tcl.drop (s.tpc + 1)) ≤ s.answers.length) : answersListed (callDone s) := by
  intro _
  rw [remainingLoad_of_bpc_zero rfl]
  exact h

theorem CycleStep.answersListed {s t : State} (h : CycleStep s t) (hb : s.busy = true)
    (hl : answersListed s) : answersListed t := by
  have hle := hl hb
  cases h with
  | completes => intro hbusy; cases hbusy
  | internal call hc =>
    obtain ⟨hfr, htpc, -, hans, -⟩ := internalEffect_frame s call
    rw [remainingLoad_of_call hc] at hle
    refine answersListed_callDone ?_
    rw [hfr.cfg, hfr.tcl, htpc, hans]
    omega
  | sent call a hc ha =>
    have hfr := succeed_frame a s
    rw [remainingLoad_of_call hc, fallibleCount_drop ha] at hle
    have hans : (succeed s a).answers.length = s.answers.length - if a.fallible then 1 else 0 := by
      rw [succeed_answers, List.length_drop]
    obtain ⟨-, he⟩ | ⟨-, he⟩ := advance_cases (expansion s call).length (succeed s a) <;> rw [he]
    · intro _
      have hc' : (succeed s a).tcl[(succeed s a).tpc]? = some call := by rwa [hfr.tcl, hfr.tpc]
      rw [remainingLoad_atBpc hc', expansion_congr hfr.cfg hfr.fb, hfr.bpc, hfr.cfg, hfr.tcl, hfr.tpc]
      simp only [atBpc, hans]
      omega
    · refine answersListed_callDone ?_
      rw [hfr.cfg, hfr.tcl, hfr.tpc, hans]
      omega
  | failed => intro hbusy; cases hbusy

/-! ## A whole operation -/

theorem blockView_seqStep {s : State} (hb : s.busy = true) (hl : answersListed s) :
    (seqStep s).blockView = (seqStep s.blockView).blockView := by
  have hexp (call : TransportCall) : expansion s.blockView call = expansion s call :=
    expansion_congr (s := s) rfl rfl call
  have htcl : s.blockView.tcl[s.blockView.tpc]? = s.tcl[s.tpc]? := rfl
  have hbpc : s.blockView.bpc = s.bpc := rfl
  unfold seqStep
  rw [htcl]
  cases hc : s.tcl[s.tpc]? with
  | none => rfl
  | some call =>
    simp only [hexp, hbpc]
    cases ha : (expansion s call)[s.bpc]? with
    | none =>
      dsimp only
      rw [blockView_callDone, blockView_internalEffect, blockView_callDone, blockView_internalEffect]
      rfl
    | some a => exact blockView_busStep a _ s (answers_ne_nil hb hl hc ha)

/-- Two runs with the same block's side keep the same block's side. -/
theorem blockView_seqRun (n : Nat) {s t : State} (h : s.blockView = t.blockView) (hs : answersListed s)
    (ht : answersListed t) : (seqRun n s).blockView = (seqRun n t).blockView := by
  induction n generalizing s t with
  | zero => exact h
  | succ n ih =>
    have hbusy : s.busy = t.busy := (congrArg State.busy h :)
    cases hb : s.busy with
    | false => rw [seqRun_idle _ s hb, seqRun_idle _ t (hbusy ▸ hb), h]
    | true =>
      have hbt : t.busy = true := hbusy ▸ hb
      rw [seqRun, seqRun, if_pos hb, if_pos hbt]
      refine ih ?_ ((seqStep_cycle s).answersListed hb hs) ((seqStep_cycle t).answersListed hbt ht)
      rw [blockView_seqStep hb hs, blockView_seqStep hbt ht, h]

theorem initStart_lifecycle (s : State) :
    (initStart s).lifecycle = if s.cfg.hasRes then s.lifecycle else .reset := by
  unfold initStart
  split
  · rfl
  · dsimp only; split <;> rfl

theorem blockView_begun (i : Instr) (s : State) (r : Rx) :
    (begun i (s.setRx r)).blockView = (begun i s).blockView := by
  have hword : opCalls i (s.setRx r) = opCalls i s := by cases i <;> rfl
  have hlife : (begun i (s.setRx r)).lifecycle = (begun i s).lifecycle := by
    cases i with
    | init => exact (initStart_lifecycle _).trans (initStart_lifecycle (beginOp _ _ s)).symm
    | _ => rfl
  rw [begun_eq i s, begun_eq i (s.setRx r), hword, hlife]
  rfl

theorem answersListed_begun {i : Instr} {s : State} (h : busLoad s.cfg (opCalls i s) ≤ s.answers.length) :
    answersListed (begun i s) := by
  intro _
  rw [remainingLoad_of_bpc_zero (begun_bpc i s)]
  simpa using h

/-- An operation makes the same of the block's side whatever the panel's side is. -/
theorem exec_blockView {i : Instr} {s t t' : State} {r : Rx} (hi : isHostOp i = true)
    (hl : busLoad s.cfg (opCalls i s) ≤ s.answers.length) (h : exec i s = .next t)
    (h' : exec i (s.setRx r) = .next t') : t'.blockView = t.blockView := by
  have hcalls : opCalls i (s.setRx r) = opCalls i s := by cases i <;> rfl
  have hlegal : operandLegal i (s.setRx r) = operandLegal i s := by cases i <;> rfl
  obtain ⟨-, rfl⟩ := exec_hostOp_next hi h
  obtain ⟨-, rfl⟩ := exec_hostOp_next hi h'
  rw [setRx_dead, hlegal]
  cases s.dead || !operandLegal i s with
  | true => rfl
  | false =>
    have hfuel : opFuel (begun i (s.setRx r)) = opFuel (begun i s) := by simp [opFuel, hcalls]
    simp only [Bool.false_eq_true, if_false, runToIdle, hfuel]
    exact blockView_seqRun _ (blockView_begun i s r) (answersListed_begun (by simpa [hcalls] using hl))
      (answersListed_begun hl)

/-- Settles O59: all that the host can read belongs to the block's side. -/
theorem theBlockCannotReadThePanel : Obligations.TheBlockCannotReadThePanel := by
  unfold Obligations.TheBlockCannotReadThePanel
  intro i s t t' r hi hl h h'
  have hv := exec_blockView hi hl h h'
  exact ⟨(congrArg State.trace hv :), (congrArg State.hstat hv :), (congrArg State.hres hv :),
    (congrArg State.fb hv :), (congrArg State.lifecycle hv :), (congrArg State.initDone hv :),
    (congrArg State.busy hv :), (congrArg State.lineRes hv :), (congrArg State.lineDc hv :),
    (congrArg State.lineCs hv :), (congrArg State.answers hv :)⟩

end Sys2Proof.Machine

/-! The decoders and the encoder against each other: what the encoding of an instruction decodes to, and what a
decoded word or byte is the encoding of (rules R90 to R102). -/

namespace Sys2Proof.Machine

/-! ## The host operation word -/

@[simp] theorem immOf_hopWord (opc imm : Byte) : immOf (hopWord opc imm) = imm :=
  BitVec.extractLsb'_append_eq_right

/-- A host operation word is its opcode and its immediate (rules R91, R102). -/
theorem hopWord_opcOf_immOf (w : HopWord) : hopWord (opcOf w) (immOf w) = w :=
  (BitVec.extractLsb'_append_extractLsb'_eq_extractLsb' rfl).trans BitVec.extractLsb'_eq_self

theorem eq_hopWord {w : HopWord} {opc : Byte} (h : (opcOf w).toNat = opc.toNat) : w = hopWord opc (immOf w) := by
  rw [← BitVec.eq_of_toNat_eq h, hopWord_opcOf_immOf]

theorem noImm_ok {imm : Byte} {i j : Instr} (h : noImm imm j = .ok i) : imm = 0 ∧ i = j := by
  unfold noImm at h
  split at h
  · exact ⟨‹_›, (Except.ok.inj h).symm⟩
  · cases h

theorem flagImm_ok {imm : Byte} {i j : Instr} (h : flagImm imm j = .ok i) : isFlagImm imm = true ∧ i = j := by
  unfold flagImm at h
  split at h
  · exact ⟨‹_›, (Except.ok.inj h).symm⟩
  · cases h

theorem noImm_error (imm : Byte) (j : Instr) : (∃ e, noImm imm j = .error e) ↔ imm.toNat ≠ 0 := by
  have hz : imm = 0 ↔ imm.toNat = 0 := BitVec.toNat_eq
  unfold noImm
  split <;> simp_all

/-- A flag operand is 0 or 1 (rule R92). -/
theorem isFlagImm_iff (v : Byte) : isFlagImm v = true ↔ v.toNat ≤ 1 := by
  revert v; decide

theorem flagImm_error (imm : Byte) (j : Instr) : (∃ e, flagImm imm j = .error e) ↔ 1 < imm.toNat := by
  rw [← Nat.not_le, ← isFlagImm_iff]
  unfold flagImm
  split <;> simp_all

/-- The word of a well-formed host operation decodes to it (rules R92, R93). -/
theorem decodeHop_encode {i : Instr} {w : HopWord} (he : encode i = .hop w) (hwf : WellFormed i = true) :
    decodeHop w = .ok i := by
  cases i with
  | reset | poweron | poweroff | showPages | init | writeData | fbRead =>
    obtain rfl := Encoded.hop.inj he
    rfl
  | sleep _ | contrast _ | writeCmd _ | fbWrite _ =>
    obtain rfl := Encoded.hop.inj he
    simp [decodeHop]
  | invert flag | fill value =>
    obtain rfl := Encoded.hop.inj he
    simpa [decodeHop, flagImm, WellFormed] using hwf
  | setLowCol _ | setHighCol _ | setContrast _ | setNormInv _ | setDisp _ | setPage _ | dataByte _
  | i2cAddress _ | ctlOneCmd | ctlDataStream | ctlCmdStream | ctlOneData => cases he

/-- A host operation without operand: its word, where `noImm` admits it. -/
theorem noImm_encodes {w : HopWord} {i j : Instr} (opc : Byte) (hopc : (opcOf w).toNat = opc.toNat)
    (he : encode j = .hop (hopWord opc 0)) (hwf : WellFormed j = true) (h : noImm (immOf w) j = .ok i) :
    encode i = .hop w ∧ WellFormed i = true := by
  obtain ⟨himm, rfl⟩ := noImm_ok h
  exact ⟨by rw [he, eq_hopWord hopc, himm], hwf⟩

/-- A host operation with a flag operand: its word, where `flagImm` admits it. -/
theorem flagImm_encodes {w : HopWord} {i j : Instr} (opc : Byte) (hopc : (opcOf w).toNat = opc.toNat)
    (he : encode j = .hop (hopWord opc (immOf w))) (hwf : WellFormed j = isFlagImm (immOf w))
    (h : flagImm (immOf w) j = .ok i) : encode i = .hop w ∧ WellFormed i = true := by
  obtain ⟨himm, rfl⟩ := flagImm_ok h
  exact ⟨by rw [he, ← eq_hopWord hopc], hwf.trans himm⟩

/-- A host operation that takes any octet: its word. -/
theorem octet_encodes {w : HopWord} {i j : Instr} (opc : Byte) (hopc : (opcOf w).toNat = opc.toNat)
    (he : encode j = .hop (hopWord opc (immOf w))) (hwf : WellFormed j = true)
    (h : (.ok j : Except DecodeError Instr) = .ok i) : encode i = .hop w ∧ WellFormed i = true := by
  obtain rfl := Except.ok.inj h
  exact ⟨by rw [he, ← eq_hopWord hopc], hwf⟩

/-- A host operation word is the encoding of what it decodes to (rules R92, R93). -/
theorem encode_of_decodeHop {w : HopWord} {i : Instr} (h : decodeHop w = .ok i) :
    encode i = .hop w ∧ WellFormed i = true := by
  simp only [decodeHop] at h
  split at h
  · exact noImm_encodes 0x01 ‹_› rfl rfl h
  · exact noImm_encodes 0x02 ‹_› rfl rfl h
  · exact noImm_encodes 0x03 ‹_› rfl rfl h
  · exact octet_encodes 0x04 ‹_› rfl rfl h
  · exact octet_encodes 0x05 ‹_› rfl rfl h
  · exact flagImm_encodes 0x06 ‹_› rfl rfl h
  · exact noImm_encodes 0x07 ‹_› rfl rfl h
  · exact noImm_encodes 0x08 ‹_› rfl rfl h
  · exact flagImm_encodes 0x09 ‹_› rfl rfl h
  · exact octet_encodes 0x0A ‹_› rfl rfl h
  · exact noImm_encodes 0x0B ‹_› rfl rfl h
  · exact octet_encodes 0x0C ‹_› rfl rfl h
  · exact noImm_encodes 0x0D ‹_› rfl rfl h
  · cases h

/-! ## The panel's wire -/

@[simp] theorem decodeCommand_lowColByte (lo : BitVec 4) : decodeCommand (lowColByte lo) = some (.lowCol lo) := by
  revert lo; decide

@[simp] theorem decodeCommand_highColByte (hi : BitVec 4) :
    decodeCommand (highColByte hi) = some (.highCol hi) := by
  revert hi; decide

@[simp] theorem decodeCommand_normInvByte (flag : BitVec 1) :
    decodeCommand (normInvByte flag) = some (.normInv flag) := by
  revert flag; decide

@[simp] theorem decodeCommand_dispByte (flag : BitVec 1) : decodeCommand (dispByte flag) = some (.disp flag) := by
  revert flag; decide

@[simp] theorem decodeCommand_pageByte (p : BitVec 4) : decodeCommand (pageByte p) = some (.page p) := by
  revert p; decide

/-- The command byte of a panel command (rule R95). -/
def commandCode : PanelCmd → Byte
  | .lowCol lo => lowColByte lo
  | .highCol hi => highColByte hi
  | .contrastFirst => 0x81
  | .normInv flag => normInvByte flag
  | .disp flag => dispByte flag
  | .page p => pageByte p

/-- A command byte is that of the command it decodes to: no two rows of rule R95 overlap (rule R98). -/
theorem commandCode_of_decodeCommand {b : Byte} {c : PanelCmd} (h : decodeCommand b = some c) :
    commandCode c = b := by
  have key : ∀ b : Byte, (decodeCommand b).all fun c => commandCode c == b := by decide
  simpa [h] using key b

/-- A control byte is that of the frame it begins (rule R100). -/
theorem encode_of_decodeControl {b : Byte} {c : Control} (h : decodeControl b = some c) :
    encode c.toInstr = .wire .ctl [b] := by
  have key : ∀ b : Byte, (decodeControl b).all fun c => encode c.toInstr == .wire .ctl [b] := by decide
  simpa [h] using key b

@[simp] theorem wellFormed_toInstr (c : Control) : WellFormed c.toInstr = true := by
  cases c with
  | one k | stream k => cases k <;> rfl

/-- An address byte in the write direction is seven address bits and a 0 (rules R99, R232). -/
theorem addrByte_extract {b : Byte} (h : b.getLsbD 0 = false) : addrByte (b.extractLsb' 1 7) = b := by
  revert b; decide

@[simp] theorem extract_addrByte (a : BitVec 7) : (addrByte a).extractLsb' 1 7 = a :=
  BitVec.extractLsb'_append_eq_left

@[simp] theorem direction_addrByte (a : BitVec 7) : (addrByte a).getLsbD 0 = false := by
  revert a; decide

/-- The bytes of a unit on the panel's wire decode to it, whatever follows them (rules R95, R99, R100). -/
theorem decodeWire_encode {i : Instr} {f : WireFormat} {bytes : List Byte} (he : encode i = .wire f bytes)
    (rest : List Byte) : decodeWire f (bytes ++ rest) = .ok (i, rest) := by
  cases i with
  | reset | poweron | poweroff | sleep _ | contrast _ | invert _ | showPages | init | fill _ | writeCmd _
  | writeData | fbWrite _ | fbRead => cases he
  | setLowCol _ | setHighCol _ | setNormInv _ | setDisp _ | setPage _ =>
    obtain ⟨rfl, rfl⟩ := Encoded.wire.inj he
    simp [decodeWire, decodeCmdUnit]
  | i2cAddress a =>
    obtain ⟨rfl, rfl⟩ := Encoded.wire.inj he
    rw [List.singleton_append, decodeWire, direction_addrByte, extract_addrByte]
    rfl
  | setContrast _ | dataByte _ | ctlOneCmd | ctlDataStream | ctlCmdStream | ctlOneData =>
    obtain ⟨rfl, rfl⟩ := Encoded.wire.inj he
    rfl

/-- A command that decodes begins with its encoding, and the rest is left over. -/
theorem encode_of_decodeCmdUnit {b : Byte} {bytes rest : List Byte} {i : Instr}
    (h : decodeCmdUnit b bytes = .ok (i, rest)) :
    WellFormed i = true ∧ ∃ unit, encode i = .wire .cmd unit ∧ b :: bytes = unit ++ rest := by
  unfold decodeCmdUnit at h
  cases hc : decodeCommand b with
  | none => simp [hc] at h
  | some c =>
    obtain rfl := commandCode_of_decodeCommand hc
    rw [hc] at h
    cases c with
    | lowCol _ | highCol _ | normInv _ | disp _ | page _ =>
      cases h
      exact ⟨rfl, _, rfl, rfl⟩
    | contrastFirst =>
      cases bytes with
      | nil => cases h
      | cons level left =>
        cases h
        exact ⟨rfl, _, rfl, rfl⟩

/-- What decodes on the panel's wire begins with its encoding, and the rest is left over (rules R95, R98, R99,
R100). -/
theorem encode_of_decodeWire {f : WireFormat} {bytes rest : List Byte} {i : Instr}
    (h : decodeWire f bytes = .ok (i, rest)) :
    WellFormed i = true ∧ ∃ unit, encode i = .wire f unit ∧ bytes = unit ++ rest := by
  cases bytes with
  | nil => cases h
  | cons b left =>
    cases f with
    | addr =>
      cases hdir : b.getLsbD 0 with
      | true => simp [decodeWire, hdir] at h
      | false =>
        simp only [decodeWire, hdir] at h
        cases h
        exact ⟨rfl, [b], by rw [encode, addrByte_extract hdir], rfl⟩
    | ctl =>
      cases hc : decodeControl b with
      | none => simp [decodeWire, hc] at h
      | some c =>
        simp only [decodeWire, hc] at h
        cases h
        exact ⟨wellFormed_toInstr c, [b], encode_of_decodeControl hc, rfl⟩
    | cmd => exact encode_of_decodeCmdUnit h
    | data =>
      cases h
      exact ⟨rfl, [b], rfl, rfl⟩

/-! ## The statements about encodings -/

/-- Settles O1: a host operation by its word, a unit of the panel's wire by its bytes. -/
theorem decodeOfEncodeIsTheInstruction : Obligations.DecodeOfEncodeIsTheInstruction := by
  unfold Obligations.DecodeOfEncodeIsTheInstruction
  intro i hwf
  cases he : encode i with
  | hop w => exact decodeHop_encode he hwf
  | wire f bytes =>
    have h := decodeWire_encode he []
    rw [List.append_nil] at h
    rw [decode, h]

/-- Settles O2: a host operation by its word; on the panel's wire what decodes begins with its encoding, and
`decode` admits nothing left over. -/
theorem decodedWordEncodesBack : Obligations.DecodedWordEncodesBack := by
  unfold Obligations.DecodedWordEncodesBack
  intro e i h
  cases e with
  | hop w => exact encode_of_decodeHop h
  | wire f bytes =>
    simp only [decode] at h
    split at h
    · obtain ⟨hwf, unit, he, rfl⟩ := encode_of_decodeWire ‹_›
      cases h
      exact ⟨by rw [he, List.append_nil], hwf⟩
    · cases h
    · cases h

/-- Settles O3: each is the encoding of its instruction. -/
theorem sampleWordsDecode : Obligations.SampleWordsDecode := by
  unfold Obligations.SampleWordsDecode
  decide

/-! ## Reserved words -/

/-- The words of an operation without operand are reserved but for `IMM = 0` (rule R92). -/
theorem hopReserved_noImm {w : HopWord} (h : (opcOf w).toNat ∈ [0x01, 0x02, 0x03, 0x07, 0x08, 0x0B, 0x0D]) :
    HopReserved w ↔ (immOf w).toNat ≠ 0 := by
  simp only [HopReserved, List.mem_cons, List.not_mem_nil, or_false] at h ⊢
  omega

/-- The words of an operation with a flag operand are reserved but for `IMM` 0 or 1 (rule R92). -/
theorem hopReserved_flag {w : HopWord} (h : (opcOf w).toNat ∈ [0x06, 0x09]) :
    HopReserved w ↔ 1 < (immOf w).toNat := by
  simp only [HopReserved, List.mem_cons, List.not_mem_nil, or_false] at h ⊢
  omega

/-- No word of an operation that takes any octet is reserved (rule R92). -/
theorem not_hopReserved_octet {w : HopWord} (h : (opcOf w).toNat ∈ [0x04, 0x05, 0x0A, 0x0C]) :
    ¬ HopReserved w := by
  simp only [HopReserved, List.mem_cons, List.not_mem_nil, or_false] at h ⊢
  omega

/-- The reserved words are those that decode to no operation (rules R92 to R94). -/
theorem hopReserved_iff (w : HopWord) : HopReserved w ↔ ∃ e, decodeHop w = .error e := by
  have noImmCase (j : Instr) (h : (opcOf w).toNat ∈ [0x01, 0x02, 0x03, 0x07, 0x08, 0x0B, 0x0D]) :
      HopReserved w ↔ ∃ e, noImm (immOf w) j = .error e :=
    (hopReserved_noImm h).trans (noImm_error _ j).symm
  have flagCase (j : Instr) (h : (opcOf w).toNat ∈ [0x06, 0x09]) :
      HopReserved w ↔ ∃ e, flagImm (immOf w) j = .error e :=
    (hopReserved_flag h).trans (flagImm_error _ j).symm
  have octetCase (j : Instr) (h : (opcOf w).toNat ∈ [0x04, 0x05, 0x0A, 0x0C]) :
      HopReserved w ↔ ∃ e, (.ok j : Except DecodeError Instr) = .error e :=
    ⟨fun hr => absurd hr (not_hopReserved_octet h), fun ⟨_, he⟩ => nomatch he⟩
  simp only [decodeHop]
  split
  case h_14 =>
    refine ⟨fun _ => ⟨_, rfl⟩, fun _ => ?_⟩
    have hopc : (opcOf w).toNat = 0 ∨ 0x0E ≤ (opcOf w).toNat := by grind
    exact hopc.imp_right .inl
  case h_4 | h_5 | h_10 | h_12 => exact octetCase _ (by simp [*])
  case h_6 | h_9 => exact flagCase _ (by simp [*])
  all_goals exact noImmCase _ (by simp [*])

theorem fetchSubmit_reserved {s : State} (h : HopReserved s.hop) : fetchSubmit s = .goes (refuse s) := by
  obtain ⟨e, he⟩ := (hopReserved_iff s.hop).1 h
  simp [fetchSubmit, he]

/-- Settles O4. -/
theorem reservedWordIsRefused : Obligations.ReservedWordIsRefused := by
  unfold Obligations.ReservedWordIsRefused
  refine ⟨hopReserved_iff, fun s rest hb hi hr => ?_⟩
  exact step_of_input hb hi (fetchSubmit_reserved (s := { s with inputs := rest }) hr)

end Sys2Proof.Machine

/-! What a unit on the panel's wire does: the bytes of its encoding, one after the other, each in its place; and
which bytes the panel refuses (rules R90, R97 to R101, R232, R233, R240 to R249). -/

namespace Sys2Proof.Machine

/-! ## A unit is its bytes -/

/-- What the panel does with a byte in a given place (rules R232, R233, R238). -/
def receive (f : WireFormat) (w : Wires) (r : Rx) (b : Byte) : Rx :=
  match f with
  | .addr => i2cStart w b r
  | .ctl => i2cByte w r b
  | .cmd => deliverCmd w b r
  | .data => deliverData w b r

theorem undecoded_eq (f : WireFormat) (b : Byte) (s : State) :
    undecoded f b s = s.setRx (receive f s.wires s.rx b) := by
  cases f <;> rfl

/-- A unit on the panel's wire does what the bytes of its encoding do in the place that the encoding names. -/
theorem exec_of_wire {i : Instr} {f : WireFormat} {bytes : List Byte} (he : encode i = .wire f bytes) (s : State) :
    exec i s = .next (s.setRx (bytes.foldl (receive f s.wires) s.rx)) := by
  cases i with
  | reset | poweron | poweroff | sleep _ | contrast _ | invert _ | showPages | init | fill _ | writeCmd _
  | writeData | fbWrite _ | fbRead => cases he
  | setLowCol _ | setHighCol _ | setNormInv _ | setDisp _ | setPage _ =>
    obtain ⟨rfl, rfl⟩ := Encoded.wire.inj he
    refine congrArg (fun effect => Host.Outcome.next (s.setRx (commandByte s.wires _ effect s.rx))) (funext fun r => ?_)
    simp [commandEffect]
  | setContrast _ | dataByte _ | i2cAddress _ | ctlOneCmd | ctlDataStream | ctlCmdStream | ctlOneData =>
    obtain ⟨rfl, rfl⟩ := Encoded.wire.inj he
    rfl

/-- A unit of one byte. -/
theorem exec_of_wire_singleton {i : Instr} {f : WireFormat} {b : Byte} (he : encode i = .wire f [b]) (s : State) :
    exec i s = .next (s.setRx (receive f s.wires s.rx b)) := exec_of_wire he s

/-! ## An awaited contrast value -/

theorem deliverCmd_awaited {s : State} (hh : s.hears) (hp : s.panel.cpend = true) (b : Byte) :
    deliverCmd s.wires b s.rx =
      withPanel s { s.panel with contrast := b, cpend := false, standing := .ordinary } := by
  obtain ⟨hk, hd⟩ := hh
  rw [deliverCmd_hears _ b _ hk hd, rx_panel, if_pos hp]
  rfl

/-- Settles O38: each unit is its command bytes, and the first of them is the awaited value. -/
theorem awaitedContrastTakesAnyCommand : Obligations.AwaitedContrastTakesAnyCommand := by
  unfold Obligations.AwaitedContrastTakesAnyCommand
  intro s hh hp
  refine ⟨fun i b _ he => ?_, fun level => ?_⟩
  · rw [exec_of_wire_singleton he, receive, deliverCmd_awaited hh hp]
    rfl
  · rw [← deliverCmd_awaited hh hp]
    exact exec_of_wire (i := .setContrast level) rfl s

/-! ## Control bytes -/

/-- Every row of rule R100 has its control byte. -/
theorem exists_decodeControl (c : Control) : ∃ b, decodeControl b = some c := by
  cases c with
  | one k =>
    cases k with
    | cmd => exact ⟨0x80, rfl⟩
    | data => exact ⟨0xC0, rfl⟩
  | stream k =>
    cases k with
    | cmd => exact ⟨0x00, rfl⟩
    | data => exact ⟨0x40, rfl⟩

/-- A control byte sets the frame handler, where one is awaited (rule R233). -/
theorem exec_toInstr {s : State} (hh : s.hears) (hf : s.panel.fh = .ctrl) (c : Control) :
    exec c.toInstr s = .next { s with panel := { s.panel with fh := Control.next c } } := by
  obtain ⟨hk, hd⟩ := hh
  obtain ⟨b, hb⟩ := exists_decodeControl c
  have hbyte : i2cByte s.wires s.rx b = s.rx.onPanel (Panel.setFh (Control.next c)) := by
    simp [i2cByte, known_ne_abandoned hk, hf, controlByte, listening_hears _ _ _ hk hd, hb]
  rw [exec_of_wire_singleton (encode_of_decodeControl hb), receive, hbyte]
  rfl

/-- Outside a transaction for the panel a control byte does nothing (rule R235). -/
theorem exec_toInstr_dropped {s : State} (ha : s.panel.standing ≠ .abandoned) (hf : s.panel.fh = .dropped)
    (c : Control) : exec c.toInstr s = .next s := by
  obtain ⟨b, hb⟩ := exists_decodeControl c
  rw [exec_of_wire_singleton (encode_of_decodeControl hb), receive, i2cByte_dropped _ s.rx b ha hf, setRx_self]

/-- Settles O41. -/
theorem controlByteSetsTheFrame : Obligations.ControlByteSetsTheFrame := by
  unfold Obligations.ControlByteSetsTheFrame
  refine ⟨fun s hh hf => ?_, fun s ha hf => ?_⟩
  · have key := exec_toInstr hh hf
    exact ⟨key (.one .cmd), key (.stream .data), key (.stream .cmd), key (.one .data)⟩
  · have key := exec_toInstr_dropped ha hf
    exact ⟨key (.one .cmd), key (.stream .data), key (.stream .cmd), key (.one .data)⟩

/-! ## What the panel refuses -/

/-- The panel has refused something (rule R280). -/
structure Rejected (r : Rx) : Prop where
  refused : r.refused = true
  standing : r.panel.standing = .abandoned

theorem refuse_rejected (c : Cfg) (r : Rx) : Rejected (r.refuse c) := ⟨rfl, rfl⟩

theorem Rejected.lost {r : Rx} (h : Rejected r) : r.panel.standing.known = false := by
  rw [h.standing]
  rfl

theorem redraw_rejected {r : Rx} (h : Rejected r) (c : Cfg) : Rejected (r.redraw c) := ⟨h.refused, h.standing⟩

/-- After a refusal no byte brings the panel back (rule R280). -/
theorem receive_rejected {r : Rx} (h : Rejected r) (f : WireFormat) (w : Wires) (b : Byte) :
    Rejected (receive f w r b) := by
  have hdeliver (k : Kind) : Rejected (deliver w k b r) := by
    rw [deliver_lost w k b r h.lost]
    exact redraw_rejected h _
  cases f with
  | addr =>
    simp only [receive, i2cStart, if_pos h.standing]
    cases w.cfg.bus with
    | i2c => exact redraw_rejected h _
    | spi => exact h
  | ctl =>
    rw [receive, i2cByte_abandoned w r b h.standing]
    exact redraw_rejected h _
  | cmd => exact hdeliver .cmd
  | data => exact hdeliver .data

theorem foldl_receive_rejected {r : Rx} (h : Rejected r) (f : WireFormat) (w : Wires) (bytes : List Byte) :
    Rejected (bytes.foldl (receive f w) r) := by
  induction bytes generalizing r with
  | nil => exact h
  | cons b bytes ih => exact ih (receive_rejected h f w b)

/-- A unit whose first byte the panel refuses. -/
theorem exec_rejected {i : Instr} {f : WireFormat} {b : Byte} {left : List Byte} {s : State}
    (he : encode i = .wire f (b :: left)) (h : Rejected (receive f s.wires s.rx b)) :
    ∃ t, exec i s = .next t ∧ t.refused = true ∧ t.panel.standing = .abandoned := by
  have hall := foldl_receive_rejected h f s.wires left
  exact ⟨_, exec_of_wire he s, hall.refused, hall.standing⟩

/-- The command bytes of rule R97. -/
theorem decodeCommand_eq_none_iff (b : Byte) : decodeCommand b = none ↔
    (0x20 ≤ b ∧ b ≤ 0x80) ∨ (0x82 ≤ b ∧ b ≤ 0xA5) ∨ (0xA8 ≤ b ∧ b ≤ 0xAD) ∨ 0xC0 ≤ b := by
  revert b
  decide

/-- A command byte of rule R97 is refused (rule R248). -/
theorem deliverCmd_unmodelled {w : Wires} {b : Byte} {r : Rx} (hk : r.panel.standing.known = true)
    (hd : duringReset w r = false) (hp : r.panel.cpend = false) (hb : decodeCommand b = none) :
    Rejected (deliverCmd w b r) := by
  rw [deliverCmd_hears w b r hk hd, hp]
  simpa [commandEffect, hb] using refuse_rejected _ _

/-- A reserved control byte is refused (rules R100, R233). -/
theorem i2cByte_reserved {w : Wires} {b : Byte} {r : Rx} (hk : r.panel.standing.known = true)
    (hd : duringReset w r = false) (hf : r.panel.fh = .ctrl) (hb : decodeControl b = none) :
    Rejected (i2cByte w r b) := by
  simpa [i2cByte, known_ne_abandoned hk, hf, controlByte, listening_hears w _ r hk hd, hb] using
    refuse_rejected _ _

/-- A step that takes a byte which is no instruction, no awaited contrast value, and which the panel refuses. -/
theorem step_rejected {s : State} {f : WireFormat} {b : Byte} {rest : List Input} {e : DecodeError}
    (hb : s.busy = false) (hi : s.inputs = .wire f [b] :: rest) (hp : f = .cmd → s.panel.cpend = false)
    (he : decodeWire f [b] = .error e) (h : Rejected (receive f s.wires s.rx b)) :
    ∃ t, step s = .next t ∧ t.refused = true ∧ t.panel.standing = .abandoned := by
  have hp' : (decide (f = .cmd) && s.panel.cpend) = false := by simpa using hp
  have hfetch : fetchWire f [b] { s with inputs := rest } = .goes (undecoded f b { s with inputs := rest }) := by
    simp [fetchWire, hp', he, leave]
  rw [undecoded_eq] at hfetch
  exact ⟨_, step_of_input hb hi hfetch, h.refused, h.standing⟩

/-! ## During a panel reset -/

section DuringReset

variable {w : Wires} {r : Rx} (hk : r.panel.standing.known = true) (hd : duringReset w r = true)
include hk hd

/-- What a panel receives during its reset it refuses (rule R249). -/
theorem listening_inReset (f : Rx → Rx) : Rejected (listening w f r) := by
  simpa [listening, hk, hd] using refuse_rejected _ _

theorem deliver_inReset (k : Kind) (b : Byte) : Rejected (deliver w k b r) := by
  cases k with
  | cmd =>
    unfold deliver deliverCmd commandByte
    exact listening_inReset hk hd _
  | data =>
    unfold deliver deliverData
    exact listening_inReset hk hd _

theorem i2cByte_inReset (b : Byte) (hf : r.panel.fh ≠ .dropped) : Rejected (i2cByte w r b) := by
  unfold i2cByte
  rw [if_neg (known_ne_abandoned hk)]
  cases hfh : r.panel.fh with
  | dropped => exact absurd hfh hf
  | ctrl => exact listening_inReset hk hd _
  | one k =>
    have hdeliver := deliver_inReset hk hd k b
    simpa [payloadOne, hdeliver.lost] using hdeliver
  | stream k => exact deliver_inReset hk hd k b

theorem i2cStart_inReset {b : Byte} (hbus : w.cfg.bus = .i2c) (hs : selectsPanel w b = true) :
    Rejected (i2cStart w b r) := by
  simpa [i2cStart, hbus, hs, known_ne_abandoned hk] using listening_inReset hk hd _

end DuringReset

theorem selectsPanel_addrByte {w : Wires} {a : BitVec 7} (h : a = w.par.panelAddr) :
    selectsPanel w (addrByte a) = true := by
  rw [selectsPanel, extract_addrByte, direction_addrByte, h, beq_self_eq_true]
  rfl

/-- Any unit that a panel in its reset receives (rule R249). -/
theorem exec_inReset {i : Instr} {s : State} (hk : s.panel.standing.known = true)
    (hd : duringReset s.wires s.rx = true) (hi : isHostOp i = false)
    (haddr : ∀ a, i = .i2cAddress a → s.cfg.bus = .i2c ∧ a = s.par.panelAddr)
    (hctl : i = .ctlOneCmd ∨ i = .ctlDataStream ∨ i = .ctlCmdStream ∨ i = .ctlOneData → s.panel.fh ≠ .dropped) :
    ∃ t, exec i s = .next t ∧ t.refused = true ∧ t.panel.standing = .abandoned := by
  cases i with
  | reset | poweron | poweroff | sleep _ | contrast _ | invert _ | showPages | init | fill _ | writeCmd _
  | writeData | fbWrite _ | fbRead => cases hi
  | setLowCol _ | setHighCol _ | setContrast _ | setNormInv _ | setDisp _ | setPage _ =>
    exact exec_rejected rfl (deliver_inReset hk hd .cmd _)
  | dataByte d => exact exec_rejected rfl (deliver_inReset hk hd .data d)
  | i2cAddress a =>
    obtain ⟨hbus, ha⟩ := haddr a rfl
    exact exec_rejected rfl (i2cStart_inReset hk hd hbus (selectsPanel_addrByte ha))
  | ctlOneCmd | ctlDataStream | ctlCmdStream | ctlOneData =>
    exact exec_rejected rfl (i2cByte_inReset hk hd _ (hctl (by simp)))

theorem duringReset_eq {s : State} (h : s.lineRes = .lo ∨ s.panel.phase ≠ .idle) :
    duringReset s.wires s.rx = true := by
  simpa [duringReset] using h

/-- Settles O42: unmodelled commands and reserved control bytes by their place, and during a reset whatever the
panel listens to. -/
theorem bytesThePanelRefuses : Obligations.BytesThePanelRefuses := by
  unfold Obligations.BytesThePanelRefuses
  refine ⟨decodeCommand_eq_none_iff, fun s b rest hb hh => ⟨fun hp hc hi => ?_, fun hf hres hi => ?_⟩,
    fun s b hk hres => ⟨fun k => ?_, fun hf => ?_, fun i hi haddr hctl => ?_⟩⟩
  · obtain ⟨hk, hd⟩ := hh
    have he : decodeWire .cmd [b] = .error .unmodelledCommand := by simp only [decodeWire, decodeCmdUnit, hc]
    exact step_rejected hb hi (fun _ => hp) he (deliverCmd_unmodelled hk hd hp hc)
  · obtain ⟨hk, hd⟩ := hh
    have hc : decodeControl b = none := if_pos hres
    have he : decodeWire .ctl [b] = .error .reservedControl := by simp only [decodeWire, hc]
    exact step_rejected hb hi (fun h => nomatch h) he (i2cByte_reserved hk hd hf hc)
  · obtain ⟨hrefused, hstanding⟩ := deliver_inReset hk (duringReset_eq hres) k b
    exact ⟨hrefused, hstanding⟩
  · obtain ⟨hrefused, hstanding⟩ := i2cByte_inReset hk (duringReset_eq hres) b hf
    exact ⟨hrefused, hstanding⟩
  · exact exec_inReset hk (duringReset_eq hres) hi haddr hctl

end Sys2Proof.Machine

/-! Every operation ends, and leaves its opcode in `HSTAT` (rules R26, R120, R271, R273, R280). -/

namespace Sys2Proof.Machine

@[simp] theorem hstatOp_mkHstat (kind cause : BitVec 2) (op : Byte) (n : Nat) :
    hstatOp (mkHstat kind cause op n) = op :=
  calc hstatOp (mkHstat kind cause op n)
    _ = (BitVec.ofNat 16 n ++ op ++ 0#4 ++ cause).extractLsb' 6 8 := extractLsb'_append_skip _ _ 6 8
    _ = (BitVec.ofNat 16 n ++ op ++ 0#4).extractLsb' 4 8 := extractLsb'_append_skip _ _ 4 8
    _ = (BitVec.ofNat 16 n ++ op).extractLsb' 0 8 := extractLsb'_append_skip _ _ 0 8
    _ = op := BitVec.extractLsb'_append_eq_right

/-! ## Every operation ends -/

/-- `BPC` stands inside the call at `TPC`, which has at most six bus actions (rules R26, R143). -/
structure Underway (s : State) : Prop where
  bpc : s.bpc < 6
  done : s.tcl.length ≤ s.tpc → s.bpc = 0

/-- A bound on the cycles that an operation still needs: six for each call to come, and the completion. -/
def cyclesLeft (s : State) : Nat := 6 * (s.tcl.length - s.tpc) + 1 - s.bpc

/-- The next bus action of the same call. -/
theorem progress_of_next_action {s t : State} (hlt : s.tpc < s.tcl.length) (htcl : t.tcl = s.tcl)
    (htpc : t.tpc = s.tpc) (hbpc : t.bpc = s.bpc + 1) (hn : s.bpc + 1 < 6) :
    Underway t ∧ cyclesLeft t < cyclesLeft s := by
  refine ⟨⟨by omega, fun hle => ?_⟩, ?_⟩
  · rw [htcl, htpc] at hle
    omega
  · simp only [cyclesLeft, htcl, htpc, hbpc]
    omega

/-- The next call, from any bus action of the one before. -/
theorem progress_of_next_call {s t : State} (h : Underway s) (hlt : s.tpc < s.tcl.length) (htcl : t.tcl = s.tcl)
    (htpc : t.tpc = s.tpc + 1) (hbpc : t.bpc = 0) : Underway t ∧ cyclesLeft t < cyclesLeft s := by
  have hb := h.bpc
  refine ⟨⟨by omega, fun _ => hbpc⟩, ?_⟩
  simp only [cyclesLeft, htcl, htpc, hbpc]
  omega

/-- A cycle ends the operation or brings it nearer to its end. -/
theorem CycleStep.progress {s t : State} (hc : CycleStep s t) (h : Underway s) :
    t.busy = false ∨ Underway t ∧ cyclesLeft t < cyclesLeft s := by
  cases hc with
  | completes => exact .inl rfl
  | internal call hcall =>
    obtain ⟨hfr, htpc, -⟩ := internalEffect_frame s call
    have hlt := (List.getElem?_eq_some_iff.1 hcall).1
    exact .inr (progress_of_next_call h hlt hfr.tcl (congrArg (· + 1) htpc) rfl)
  | sent call a hcall =>
    have hfr := succeed_frame a s
    have hlt := (List.getElem?_eq_some_iff.1 hcall).1
    have hlen := length_expansion s call
    obtain ⟨hmore, he⟩ | ⟨-, he⟩ := advance_cases (expansion s call).length (succeed s a) <;> rw [he]
    · rw [hfr.bpc] at hmore
      exact .inr (progress_of_next_action hlt hfr.tcl hfr.tpc (congrArg (· + 1) hfr.bpc) (by omega))
    · exact .inr (progress_of_next_call h hlt hfr.tcl (congrArg (· + 1) hfr.tpc) rfl)
  | failed => exact .inl rfl

/-- A run with as many cycles as the operation needs ends idle. -/
theorem seqRun_ends {n : Nat} {s : State} (h : s.busy = true → Underway s ∧ cyclesLeft s ≤ n) :
    (seqRun n s).busy = false := by
  induction n generalizing s with
  | zero =>
    rw [seqRun]
    refine Bool.eq_false_iff.2 fun hb => ?_
    obtain ⟨hu, hleft⟩ := h hb
    have hb := hu.bpc
    have hd := hu.done
    simp only [cyclesLeft] at hleft
    omega
  | succ n ih =>
    unfold seqRun
    split
    · obtain ⟨hu, hleft⟩ := h ‹_›
      refine ih fun hb => ?_
      obtain hidle | ⟨hu', hlt⟩ := (seqStep_cycle s).progress hu
      · cases hidle.symm.trans hb
      · exact ⟨hu', by omega⟩
    · simpa using ‹¬ s.busy = true›

/-- An accepted operation runs to its end (rule R120). -/
theorem runToIdle_begun_busy (i : Instr) (s : State) : (runToIdle (begun i s)).busy = false := by
  refine seqRun_ends fun _ => ⟨⟨by simp, by simp⟩, ?_⟩
  simp [cyclesLeft, opFuel]

/-! ## What the status records -/

/-- An operation that has ended has left its opcode in `HSTAT`, with no error or a TransportError. -/
def recorded (op : Byte) (s : State) : Prop :=
  s.busy = false → hstatOp s.hstat = op ∧ (hstatKind s.hstat = 0 ∨ hstatKind s.hstat = 2)

theorem recorded_of_busy {s : State} (op : Byte) (hb : s.busy = true) : recorded op s :=
  fun hidle => by cases hidle.symm.trans hb

/-- A cycle that ends an operation records it: completion with `KIND` 0, the abort with `KIND` 2. -/
theorem CycleStep.recorded {s t : State} (h : CycleStep s t) (hb : s.busy = true) : recorded (curOp s) t := by
  cases h with
  | completes =>
    refine fun _ => ⟨?_, .inl ?_⟩ <;> rw [complete_hstat]
    · exact hstatOp_mkHstat ..
    · exact hstatKind_mkHstat ..
  | internal call => exact recorded_of_busy _ ((internalEffect_frame s call).1.busy.trans hb)
  | sent call a =>
    exact recorded_of_busy _ (((succeed_frame a s).call.trans (advance_frame _ _)).busy.trans hb)
  | failed call a c n =>
    have hcur : (performFailed a n (takeAnswer s)).cur = s.cur :=
      ((takeAnswer_frame s).trans (performFailed_frame a n _)).cur
    refine fun _ => ⟨?_, .inr ?_⟩ <;> rw [abort_hstat]
    · rw [hstatOp_mkHstat, curOp, curOp, hcur]
    · exact hstatKind_mkHstat ..

/-- An accepted operation records its own opcode. -/
theorem runToIdle_begun_recorded {i : Instr} (hi : isHostOp i = true) (s : State) :
    recorded (opcodeOf i) (runToIdle (begun i s)) := by
  refine (runToIdle_induct (P := fun u => curOp u = opcodeOf i ∧ recorded (opcodeOf i) u) (fun u hb hu => ?_)
    (begun i s) ⟨begun_curOp hi s, recorded_of_busy _ (begun_busy i s)⟩).2
  obtain ⟨hop, -⟩ := hu
  have hc := seqStep_cycle u
  exact ⟨by rw [curOp, hc.frame.cur]; exact hop, hop ▸ hc.recorded hb⟩

/-- An accepted operation with a legal operand runs its transport calls (rule R120). -/
theorem exec_accepted {i : Instr} {s : State} (hi : isHostOp i = true) (ha : s.accepts)
    (ho : operandLegal i s = true) : exec i s = .next (runToIdle (begun i s)) := by
  obtain ⟨hb, hd⟩ := ha
  rw [exec_hostOp i s hi, hostOp, if_neg (by simp [hb]), if_neg (by simp [hd, ho])]
  rfl

/-- Settles O57. -/
theorem illegalOperandIsRefused : Obligations.IllegalOperandIsRefused := by
  unfold Obligations.IllegalOperandIsRefused
  intro i s hi ha
  refine ⟨fun ho => ?_, fun ho => ⟨_, exec_accepted hi ha ho, ?_⟩⟩
  · rw [exec_hostOp i s hi]
    exact hostOp_refused _ _ _ _ s ha.1 (.inr (by rw [ho]; rfl))
  · exact runToIdle_begun_recorded hi s (runToIdle_begun_busy i s)

end Sys2Proof.Machine

/-! The framebuffer operations (rules R60, R61, R121 to R127): each is one transport call without bus action, so it
meets no error and its end is known from the state it starts in. -/

namespace Sys2Proof.Machine

/-! ## One transport call without bus action -/

/-- A framebuffer operation, as submitted in `s`, and its one transport call (rules R121, R125, R127). -/
inductive FbOp (s : State) : Instr → TransportCall → Prop
  | fill (v : Byte) : FbOp s (.fill v) (.fillFb (v == 1))
  | write (v : Byte) : FbOp s (.fbWrite v) (.fbw s.haddr v)
  | read : FbOp s .fbRead (.fbr s.haddr)

/-- The end of an accepted operation with the one transport call `call` that meets no error (rule R120). -/
def afterCall (i : Instr) (call : TransportCall) (s : State) : State :=
  complete (runCalls [call] (beginOp (opWord i) [call] s))

section
variable {s : State} {i : Instr} {call : TransportCall}

theorem FbOp.isHostOp (h : FbOp s i call) : isHostOp i = true := by cases h <;> rfl

theorem FbOp.opCalls (h : FbOp s i call) : opCalls i s = [call] := by cases h <;> rfl

theorem FbOp.opStart (h : FbOp s i call) : opStart i = id := by cases h <;> rfl

theorem FbOp.busLoad (h : FbOp s i call) : busLoad s.cfg [call] = 0 := by cases h <;> rfl

theorem FbOp.expansion (h : FbOp s i call) (u : State) : expansion u call = [] := by cases h <;> rfl

/-- No framebuffer operation is one of the five that write `LIFECYCLE`, INIT among them (rule R29). -/
theorem FbOp.opcode (h : FbOp s i call) : opcOf (opWord i) ∉ lifecycleOps := by
  cases h <;> simp [opWord, encode, lifecycleOps]

/-- An accepted framebuffer operation runs its call and completes, with no answer of the bus taken. -/
theorem FbOp.exec (h : FbOp s i call) (ha : s.accepts) (ho : operandLegal i s = true) :
    exec i s = .next (afterCall i call s) := by
  rw [exec_hostOp i s h.isHostOp, h.opStart, h.opCalls]
  refine hostOp_ok _ _ _ s ha (by rw [ho]; rfl) ?_
  rw [h.busLoad]
  rfl

/-- A framebuffer operation leaves the device as it was (rule R126). -/
theorem FbOp.sameDevice (h : FbOp s i call) : sameDevice s (afterCall i call s) := by
  have hop : curOp (beginOp (opWord i) [call] s) ∉ lifecycleOps := h.opcode
  have hinit : curOp (beginOp (opWord i) [call] s) ≠ 0x08 := fun he => hop (by rw [he]; decide)
  have hrun : runCalls [call] (beginOp (opWord i) [call] s) =
      callDone (internalEffect (beginOp (opWord i) [call] s) call) := by
    simp [runCalls, runCall, h.expansion, succeedAll]
  obtain ⟨hfr, -, htrace, hanswers, hrx, hwires, hlife⟩ :=
    internalEffect_frame (beginOp (opWord i) [call] s) call
  unfold afterCall
  rw [hrun]
  generalize internalEffect (beginOp (opWord i) [call] s) call = u at *
  have hcur : curOp u = curOp (beginOp (opWord i) [call] s) := congrArg opcOf hfr.cur
  rw [← hcur] at hop hinit
  refine ⟨hrx, hwires, htrace, hanswers, ?_, ?_⟩
  · calc (complete (callDone u)).lifecycle
      _ = (callDone u).lifecycle := completedLifecycle_other (callDone u) hop
      _ = u.lifecycle := callDone_lifecycle_other u hop
      _ = s.lifecycle := hlife
  · have hdone : (complete (callDone u)).initDone = (u.initDone || curOp u == 0x08) := rfl
    rw [hdone, beq_false_of_ne hinit, Bool.or_false]
    exact hfr.initDone

end

/-! ## Addresses and pixels -/

/-- The place of a column in a page names both (rule R60). -/
theorem fbIndex_inj {c : Cfg} {p p' x x' : Nat} (hx : x < c.W) (hx' : x' < c.W)
    (h : fbIndex c p x = fbIndex c p' x') : p = p' ∧ x = x' := by
  unfold fbIndex at h
  have hp : (p * c.W + x) / c.W = (p' * c.W + x') / c.W := congrArg (· / c.W) h
  have hpos : 0 < c.W := by omega
  rw [Nat.mul_comm p, Nat.mul_comm p', Nat.mul_add_div hpos, Nat.mul_add_div hpos, Nat.div_eq_of_lt hx,
    Nat.div_eq_of_lt hx'] at hp
  obtain rfl : p = p' := by simpa using hp
  exact ⟨rfl, by omega⟩

theorem pixelIndex_lt {c : Cfg} {x y : Nat} (hx : x < c.W) (hy : y < 8 * c.PAGES) :
    pixelIndex c x y < c.fbSize := by
  have hpage : y / 8 + 1 ≤ c.PAGES := by omega
  calc y / 8 * c.W + x
    _ < (y / 8 + 1) * c.W := by rw [Nat.add_mul]; omega
    _ ≤ c.PAGES * c.W := Nat.mul_le_mul_right _ hpage
    _ = c.fbSize := Nat.mul_comm _ _

/-- A configuration that passes the checks has eight rows in every page (rules R6, R300). -/
theorem height_eq {c : Cfg} (h : constructionCause c = none) : c.H = 8 * c.PAGES := by
  have hmod : c.height % 8 = 0 := by
    by_contra hne
    unfold constructionCause at h
    split at h
    · cases h
    · rw [if_pos (.inr hne)] at h
      cases h
  unfold Cfg.PAGES Cfg.H
  omega

theorem fillByte_getLsbD (b : Bool) {k : Nat} (hk : k < 8) : (fillByte b).getLsbD k = b := by
  cases b with
  | false => simp [fillByte]
  | true => exact BitVec.getLsbD_allOnes.trans (decide_eq_true hk)

/-- Replacing one bit of a byte sets that bit and keeps the others (rules R61, R123). -/
theorem withPixel_getLsbD (b : Byte) (y : Nat) (v : Bool) {k : Nat} (hk : k < 8) :
    (withPixel b y v).getLsbD k = if k = y % 8 then v else b.getLsbD k := by
  have hy : y % 8 < 8 := Nat.mod_lt _ (by omega)
  have hmask : (1#8 <<< (y % 8)).getLsbD k = decide (y % 8 = k) := by
    rw [← BitVec.twoPow_eq, BitVec.getLsbD_twoPow, decide_eq_true hy, Bool.true_and]
  have hbit : ((if v then 1#8 else 0#8) <<< (y % 8)).getLsbD k = (v && decide (y % 8 = k)) := by
    cases v with
    | false => simp
    | true => exact hmask
  rw [withPixel, BitVec.getLsbD_or, BitVec.getLsbD_and, BitVec.getLsbD_not, hmask, hbit, decide_eq_true hk]
  by_cases h : k = y % 8
  · simp [← h]
  · simp [h, Ne.symm h]

theorem fbByte_congr {s t : State} (h : t.fb = s.fb) (i : Nat) : fbByte t i = fbByte s i := by
  rw [fbByte, fbByte, h]

theorem byte?_eq_none {m : Memory} {i : Nat} (h : ∀ c ∈ m, c.1 ≠ i) : Memory.byte? m i = none := by
  induction m with
  | nil => rfl
  | cons c m ih =>
    obtain ⟨hc, hm⟩ := List.forall_mem_cons.1 h
    rw [Memory.byte?, if_neg hc, ih hm]

/-- FILLFB does not write past the framebuffer, which lists no byte there (rules R62, R121). -/
theorem fbByte_fillAll_outside {s : State} (hs : ∀ c ∈ s.fb, c.1 < s.cfg.fbSize) (v : Bool) {i : Nat}
    (hi : s.cfg.fbSize ≤ i) : fbByte (fillAll s v) i = fbByte s i := by
  have hnone : Memory.byte? s.fb i = none := byte?_eq_none fun c hc => by have := hs c hc; omega
  rw [fbByte, fbByte, hnone, fillAll_fb, byte?_range, if_neg (by omega)]

/-! ## The three operations -/

theorem operandLegal_fill (v : Byte) (s : State) : operandLegal (.fill v) s = true ↔ v = 0 ∨ v = 1 := by
  have h : isFlagImm v = true ↔ v = 0 ∨ v = 1 := by revert v; decide
  simpa [operandLegal, WellFormed] using h

theorem operandLegal_fbWrite (v : Byte) (s : State) :
    operandLegal (.fbWrite v) s = true ↔ s.haddr < s.cfg.fbSize := by simp [operandLegal, WellFormed]

theorem operandLegal_fbRead (s : State) : operandLegal .fbRead s = true ↔ s.haddr < s.cfg.fbSize := by
  simp [operandLegal, WellFormed]

/-- An operation whose operand is not legal is refused. -/
theorem exec_illegal {i : Instr} {s : State} (hi : isHostOp i = true) (ha : s.accepts)
    (ho : ¬ operandLegal i s = true) : exec i s = .next { s with refused := true } :=
  (illegalOperandIsRefused i s hi ha).1 (Bool.eq_false_iff.2 ho)

/-- Settles O11: FILLFB lists the fill byte at every index of the framebuffer, and a pixel of the image stands at one
of them. -/
theorem fillWritesEveryByte : Obligations.FillWritesEveryByte := by
  unfold Obligations.FillWritesEveryByte
  intro s v ha
  have hop : FbOp s (.fill v) (.fillFb (v == 1)) := .fill v
  refine ⟨fun hv => ⟨_, hop.exec ha ((operandLegal_fill v s).2 hv), endedOk_complete _ _ s,
    sameHost_complete _ _ s, hop.sameDevice, rfl, fun k hk => ?_, fun hs k hk => ?_, fun hc x y hx hy => ?_⟩,
    fun h0 h1 => exec_illegal rfl ha fun ho => ((operandLegal_fill v s).1 ho).elim h0 h1⟩
  · have h : fbByte (fillAll s (v == 1)) k = fillByte (v == 1) := fbByte_fillAll s _ k hk
    exact h.trans (by simp [fillByte])
  · exact fbByte_fillAll_outside hs (v == 1) hk
  · have h : fbByte (fillAll s (v == 1)) (pixelIndex s.cfg x y) = fillByte (v == 1) :=
      fbByte_fillAll s _ _ (pixelIndex_lt hx (height_eq hc ▸ hy))
    exact (congrArg (BitVec.getLsbD · (y % 8)) h).trans (fillByte_getLsbD _ (Nat.mod_lt _ (by omega)))

/-- Settles O12: a pixel is a bit of a byte, so the frame of the bytes is the frame of the pixels. -/
theorem fbWriteWritesOneByte : Obligations.FbWriteWritesOneByte := by
  unfold Obligations.FbWriteWritesOneByte
  intro s v ha
  have hop : FbOp s (.fbWrite v) (.fbw s.haddr v) := .write v
  have hbyte (k : Nat) : fbByte (afterCall (.fbWrite v) (.fbw s.haddr v) s) k =
      if k = s.haddr then v else fbByte s k := fbByte_memWrite s s.haddr k v
  refine ⟨fun hin => ⟨_, hop.exec ha ((operandLegal_fbWrite v s).2 hin), endedOk_complete _ _ s,
    sameHost_complete _ _ s, hop.sameDevice, rfl, hbyte, fun x y => ?_⟩,
    fun hout => exec_illegal rfl ha (by rw [operandLegal_fbWrite]; omega)⟩
  refine (congrArg (BitVec.getLsbD · (y % 8)) (hbyte _)).trans ?_
  exact apply_ite (BitVec.getLsbD · (y % 8)) _ _ _

/-- Settles O13: FBR copies the byte and writes nothing else; an immediate other than 0 is reserved. -/
theorem fbReadReadsOneByte : Obligations.FbReadReadsOneByte := by
  unfold Obligations.FbReadReadsOneByte
  refine ⟨fun s ha => ?_, fun imm himm => ?_⟩
  · have hop : FbOp s .fbRead (.fbr s.haddr) := .read
    refine ⟨fun hin => ⟨_, hop.exec ha ((operandLegal_fbRead s).2 hin), endedOk_complete _ _ s,
      sameHost_complete _ _ s, hop.sameDevice, rfl, rfl, fun hnone => ?_⟩,
      fun hout => exec_illegal rfl ha (by rw [operandLegal_fbRead]; omega)⟩
    have h : fbByte s s.haddr = Config.anyFbByte s.haddr := by rw [fbByte, hnone]; rfl
    exact h
  · simp only [decodeHop, opcOf_hopWord, immOf_hopWord]
    exact if_neg himm

/-- Settles O14: the read leaves the framebuffer, so the byte written is the old one with one bit replaced, and
another pixel of the image stands in another byte or at another bit of this one. -/
theorem readModifyWriteSetsOnePixel : Obligations.ReadModifyWriteSetsOnePixel := by
  unfold Obligations.ReadModifyWriteSetsOnePixel
  intro s x y v ha hx hy haddr
  have hin : s.haddr < s.cfg.fbSize := by rw [haddr]; exact pixelIndex_lt hx hy
  obtain ⟨t, ht, ⟨hidle, -⟩, ⟨-, -, htaddr, -, htcfg, -, htdead, -⟩, -, htfb, hthres, -⟩ :=
    (fbReadReadsOneByte.1 s ha).1 hin
  obtain ⟨u, hu, -, -, -, -, -, hpixel⟩ :=
    (fbWriteWritesOneByte t (withPixel t.hres y v) ⟨hidle, htdead.trans ha.2⟩).1 (by rwa [htaddr, htcfg])
  rw [htaddr, htcfg] at hpixel
  refine ⟨t, ht, u, hu, ?_, fun x' y' hx' hne => ?_⟩
  · rw [hpixel, if_pos haddr.symm, withPixel_getLsbD _ _ _ (Nat.mod_lt _ (by omega)), if_pos rfl]
  · by_cases hat : y' / 8 * s.cfg.W + x' = s.haddr
    · obtain ⟨hpage, rfl⟩ := fbIndex_inj (c := s.cfg) hx' hx (hat.trans haddr)
      have hbit : y' % 8 ≠ y % 8 := fun he => hne (by rw [show y' = y by omega])
      rw [hpixel, if_pos hat, withPixel_getLsbD _ _ _ (Nat.mod_lt _ (by omega)), if_neg hbit, hthres]
      exact congrArg (fun k => (fbByte s k).getLsbD (y' % 8)) hat.symm
    · rw [hpixel, if_neg hat, pixel, pixel, htcfg, fbByte_congr htfb]

/-- Settles O15: a framebuffer operation that has a step is refused, or completes by its one call. -/
theorem framebufferOpsTouchNoDevice : Obligations.FramebufferOpsTouchNoDevice := by
  unfold Obligations.FramebufferOpsTouchNoDevice
  intro i s t hi h
  obtain ⟨call, hop⟩ : ∃ call, FbOp s i call := by
    obtain rfl | ⟨v, rfl⟩ | ⟨v, rfl⟩ := hi
    · exact ⟨_, .read⟩
    · exact ⟨_, .write v⟩
    · exact ⟨_, .fill v⟩
  obtain ⟨hb, ⟨-, rfl⟩ | ⟨hd, ho, -⟩⟩ := exec_hostOp_cases hop.isHostOp h
  · exact ⟨rfl, rfl, rfl, rfl, rfl, rfl, rfl, rfl, .inl rfl⟩
  · cases (hop.exec ⟨hb, hd⟩ ho).symm.trans h
    obtain ⟨hrx, hwires, htrace, -, hlife, hdone⟩ := hop.sameDevice
    refine ⟨congrArg Wires.lineRes hwires, congrArg Wires.lineDc hwires, congrArg Wires.lineCs hwires,
      congrArg Wires.spiMode hwires, hlife, hdone, congrArg Rx.panel hrx, htrace, .inr ?_⟩
    exact hstatKind_mkHstat ..

end Sys2Proof.Machine

/-! A step runs the instruction it finds, and every instruction leaves the block idle (rules R98, R101, R120,
R276). -/

namespace Sys2Proof.Machine

/-- Settles O55: a host operation is refused or run to its end, and a unit on the panel's wire does not touch the
block. -/
theorem everyOperationEnds : Obligations.EveryOperationEnds := by
  unfold Obligations.EveryOperationEnds
  intro i s hb
  cases hi : isHostOp i with
  | false =>
    obtain ⟨r, hr, -⟩ := exec_panelUnit i s hi
    exact ⟨_, hr, hb⟩
  | true =>
    rw [exec_hostOp i s hi, hostOp, if_neg (by simp [hb])]
    refine ⟨_, rfl, ?_⟩
    split
    · exact hb
    · exact runToIdle_begun_busy i s

/-- A step that runs an instruction, from the input it takes. -/
theorem step_of_instr {s u : State} {input : Input} {rest : List Input} {i : Instr} (hb : s.busy = false)
    (hi : s.inputs = input :: rest) (h : fetchInput input { s with inputs := rest } = .instr i u) :
    step s = exec i u := by
  have hf : fetch s = .instr i u := by rw [fetch, if_neg (by simp [hb]), hi]; exact h
  rw [step, hf]

/-- Bytes that decode are fetched as their instruction, but for a command byte while a contrast value is awaited
(rule R98). -/
theorem fetchWire_decoded {f : WireFormat} {bytes left : List Byte} {i : Instr} {s : State}
    (hd : decodeWire f bytes = .ok (i, left)) (hp : ¬(f = .cmd ∧ s.panel.cpend = true)) :
    fetchWire f bytes s = .instr i (leave f left s) := by
  cases bytes with
  | nil => cases hd
  | cons b rest => simp [fetchWire, hp, hd]

/-- Settles O5: what `fetchInput` makes of a submitted word and of the next bytes on the wire. -/
theorem stepRunsTheDecodedInstruction : Obligations.StepRunsTheDecodedInstruction := by
  unfold Obligations.StepRunsTheDecodedInstruction
  refine ⟨fun s rest i hb hi hw hd => step_of_instr hb hi ?_, fun s rest f bytes left i hb hi hd hp =>
    step_of_instr hb hi ?_⟩
  · simp [fetchInput, fetchSubmit, hw, hd]
  · exact (fetchWire_decoded (s := { s with inputs := rest }) hd hp).trans
      (congrArg (Fetched.instr i) (leave_eq ..))

end Sys2Proof.Machine

/-! The bus actions of the transport calls, and the level they leave the CS line at (rules R99, R143, R150 to
R155). -/

namespace Sys2Proof.Machine

/-! ## Expansion -/

/-- `ADDRBYTE` is twice the address, in 8 bits (rule R99). -/
theorem cfgAddrByte_eq (c : Cfg) : cfgAddrByte c = BitVec.ofNat 8 (2 * c.i2cAddr) := by
  apply BitVec.eq_of_toNat_eq
  simp [cfgAddrByte, Nat.shiftLeft_eq, Nat.mul_comm]

section
variable {s : State}

theorem expansion_cmd_i2c (hb : s.cfg.bus = .i2c) (c : Byte) :
    expansion s (.cmd c) = [.i2cTxn [cfgAddrByte s.cfg, ctlOneCmdByte, c]] := by
  rw [expansion, cmdActions, hb]

theorem expansion_data_i2c (hb : s.cfg.bus = .i2c) (l : List Byte) :
    expansion s (.data l) = [.i2cTxn ([cfgAddrByte s.cfg, ctlDataStreamByte] ++ l)] := by
  rw [expansion, dataActions, hb]

theorem expansion_cmd_spi (hb : s.cfg.bus = .spi) (c : Byte) :
    expansion s (.cmd c) = spiActions s.cfg false [c] := by
  rw [expansion, cmdActions, hb]

theorem expansion_data_spi (hb : s.cfg.bus = .spi) (l : List Byte) :
    expansion s (.data l) = spiActions s.cfg true l := by
  rw [expansion, dataActions, hb]

end

theorem spiActions_cs {c : Cfg} (hc : c.hasCs = true) (dc : Bool) (l : List Byte) :
    spiActions c dc l =
      [.spiCfg (blockMode c), .pin .cs true, .pin .dc dc, .pin .cs false, .spiXfer l, .pin .cs true] := if_pos hc

theorem spiActions_noCs {c : Cfg} (hc : c.hasCs = false) (dc : Bool) (l : List Byte) :
    spiActions c dc l = [.spiCfg (blockMode c), .pin .dc dc, .spiXfer l] := if_neg (by simp [hc])

/-- A page is sent as the data of its framebuffer bytes (rules R71, R186). -/
theorem expansion_dataFb (s : State) (p : Nat) : expansion s (.dataFb p) = expansion s (.data (pageBytes s p)) := rfl

/-- Settles O16: a command and a data call by the bus and the CS line, every other call as it stands. -/
theorem expansionTable : Obligations.ExpansionTable := by
  unfold Obligations.ExpansionTable
  intro s c l p
  refine ⟨fun hb => ?_, fun hb hc => ?_, fun hb hc => ?_, expansion_dataFb s p, fun _ => rfl, fun _ => rfl,
    fun _ => rfl, fun _ _ => rfl, fun _ => rfl⟩
  · rw [expansion_cmd_i2c hb, expansion_data_i2c hb, cfgAddrByte_eq]
    exact ⟨rfl, rfl⟩
  · rw [expansion_cmd_spi hb, expansion_data_spi hb, spiActions_cs hc, spiActions_cs hc]
    exact ⟨rfl, rfl⟩
  · rw [expansion_cmd_spi hb, expansion_data_spi hb, spiActions_noCs hc, spiActions_noCs hc]
    exact ⟨rfl, rfl⟩

/-! ## The CS line over a call -/

/-- On SPI a call that sends something is one transfer (rules R150 to R154). -/
theorem expansion_of_send {s : State} {call : TransportCall} (hb : s.cfg.bus = .spi)
    (hl : callLoad s.cfg call ≠ 0) : ∃ dc l, expansion s call = spiActions s.cfg dc l := by
  cases call with
  | cmd c => exact ⟨_, _, expansion_cmd_spi hb c⟩
  | data l => exact ⟨_, _, expansion_data_spi hb l⟩
  | dataFb p => exact ⟨_, _, expansion_data_spi hb (pageBytes s p)⟩
  | res _ | wait _ | fillFb _ | fbw _ _ | fbr _ => exact absurd rfl hl

/-- With a CS line, the last bus action of a call that sends something drives it high (rule R155). -/
theorem expansion_ends_high {s : State} {call : TransportCall} (hb : s.cfg.bus = .spi)
    (hc : s.cfg.hasCs = true) (hl : callLoad s.cfg call ≠ 0) :
    ∃ acts, expansion s call = acts ++ [.pin .cs true] := by
  obtain ⟨dc, l, he⟩ := expansion_of_send hb hl
  rw [he, spiActions_cs hc]
  exact ⟨[_, _, _, _, _], rfl⟩

/-- Where there is no CS line, or nothing is sent, a call has no bus action on CS (rules R33, R143). -/
theorem expansion_not_cs {s : State} {call : TransportCall}
    (h : ¬(s.cfg.bus = .spi ∧ s.cfg.hasCs = true ∧ callLoad s.cfg call ≠ 0)) (lv : Bool) :
    .pin .cs lv ∉ expansion s call := by
  by_cases hb : s.cfg.bus = .spi
  · by_cases hl : callLoad s.cfg call = 0
    · cases call with
      | cmd _ | data _ | dataFb _ => simp [callLoad, hb] at hl
      | res _ | wait _ | fillFb _ | fbw _ _ | fbr _ => simp [expansion]
    · obtain ⟨dc, l, he⟩ := expansion_of_send hb hl
      have hc : s.cfg.hasCs = false := by simpa [hb, hl] using h
      simp [he, spiActions_noCs hc]
  · have hi : s.cfg.bus = .i2c := by
      cases hbus : s.cfg.bus with
      | i2c => rfl
      | spi => exact absurd hbus hb
    cases call with
    | cmd c => simp [expansion_cmd_i2c hi]
    | data l => simp [expansion_data_i2c hi]
    | dataFb p => simp [expansion_dataFb, expansion_data_i2c hi]
    | res _ | wait _ | fillFb _ | fbw _ _ | fbr _ => simp [expansion]

/-- A line keeps its level over bus actions that do not drive it (rule R66). -/
theorem drivenBy_of_not_mem {acts : List BusAction} {line : Line} (h : ∀ lv, .pin line lv ∉ acts) (lv : Level) :
    drivenBy acts line lv = lv := by
  induction acts with
  | nil => rfl
  | cons a acts ih =>
    have hne (b : Bool) : a ≠ .pin line b := fun he => h b (by simp [he])
    have htail := ih fun b hb => h b (List.mem_cons_of_mem _ hb)
    simpa [drivenBy, hne] using htail

/-- The level of CS after calls with `load` fallible bus actions, from the level `lv` (rule R155). -/
def csAfter (c : Cfg) (load : Nat) (lv : Level) : Level :=
  if c.bus = .spi ∧ c.hasCs = true ∧ load ≠ 0 then .hi else lv

@[simp] theorem csAfter_zero (c : Cfg) (lv : Level) : csAfter c 0 lv = lv := by simp [csAfter]

theorem csAfter_send {c : Cfg} {load : Nat} (hb : c.bus = .spi) (hc : c.hasCs = true) (hl : load ≠ 0) (lv : Level) :
    csAfter c load lv = .hi := if_pos ⟨hb, hc, hl⟩

theorem csAfter_ne_lo {lv : Level} (h : lv ≠ .lo) (c : Cfg) (load : Nat) : csAfter c load lv ≠ .lo := by
  unfold csAfter
  split
  · exact nofun
  · exact h

theorem csAfter_add (c : Cfg) (m n : Nat) (lv : Level) : csAfter c (m + n) lv = csAfter c n (csAfter c m lv) := by
  by_cases h : c.bus = .spi ∧ c.hasCs = true
  · by_cases hm : m = 0
    · simp [hm]
    · by_cases hn : n = 0
      · simp [hn]
      · rw [csAfter_send h.1 h.2 (by omega), csAfter_send h.1 h.2 hn]
  · simp only [csAfter, ← and_assoc, h, false_and, if_false]

/-- A call that sends something leaves CS high, every other one where it was (rule R155). -/
theorem drivenBy_cs_expansion (s : State) (call : TransportCall) (lv : Level) :
    drivenBy (expansion s call) .cs lv = csAfter s.cfg (callLoad s.cfg call) lv := by
  unfold csAfter
  split
  · rename_i h
    obtain ⟨acts, he⟩ := expansion_ends_high h.1 h.2.1 h.2.2
    rw [he, drivenBy_append]
    rfl
  · exact drivenBy_of_not_mem (expansion_not_cs ‹_›) lv

/-! ## The CS line over an operation -/

/-- The level that CS is at when the operation in progress ends, if it meets no error. -/
def csAtEnd (s : State) : Level :=
  match s.tcl[s.tpc]? with
  | none => s.lineCs
  | some call =>
    csAfter s.cfg (busLoad s.cfg (s.tcl.drop (s.tpc + 1))) (drivenBy ((expansion s call).drop s.bpc) .cs s.lineCs)

theorem csAtEnd_of_call {s : State} {call : TransportCall} (h : s.tcl[s.tpc]? = some call) :
    csAtEnd s = csAfter s.cfg (busLoad s.cfg (s.tcl.drop (s.tpc + 1)))
      (drivenBy ((expansion s call).drop s.bpc) .cs s.lineCs) := by
  simp [csAtEnd, h]

theorem csAtEnd_atBpc {s : State} {call : TransportCall} (h : s.tcl[s.tpc]? = some call) (j : Nat) :
    csAtEnd (atBpc s j) = csAfter s.cfg (busLoad s.cfg (s.tcl.drop (s.tpc + 1)))
      (drivenBy ((expansion s call).drop j) .cs s.lineCs) := by
  rw [csAtEnd_of_call (s := atBpc s j) h, expansion_congr (s := s) (t := atBpc s j) rfl rfl]
  rfl

/-- At the start of a call it and the calls behind it are still to come. -/
theorem csAtEnd_of_bpc_zero {s : State} (h : s.bpc = 0) :
    csAtEnd s = csAfter s.cfg (busLoad s.cfg (s.tcl.drop s.tpc)) s.lineCs := by
  cases hc : s.tcl[s.tpc]? with
  | none => rw [List.drop_eq_nil_of_le (List.getElem?_eq_none_iff.1 hc)]; simp [csAtEnd, hc, busLoad]
  | some call =>
    obtain ⟨hlt, hget⟩ := List.getElem?_eq_some_iff.1 hc
    rw [csAtEnd_of_call hc, List.drop_eq_getElem_cons hlt, hget, busLoad_cons, csAfter_add, h, List.drop_zero,
      drivenBy_cs_expansion]

/-- The bus action that comes next drives the line first. -/
theorem drivenBy_drop {acts : List BusAction} {j : Nat} {a : BusAction} (h : acts[j]? = some a) (line : Line)
    (lv : Level) : drivenBy (acts.drop j) line lv = drivenBy (acts.drop (j + 1)) line (drivenBy [a] line lv) := by
  obtain ⟨hlt, hget⟩ := List.getElem?_eq_some_iff.1 h
  rw [List.drop_eq_getElem_cons hlt, hget]
  rfl

/-- CS is at `lv` when the operation ends, if it meets no error: while it goes on that is still to come, and at its
end the line is there. -/
def csReaches (lv : Level) (s : State) : Prop :=
  (s.busy = true → csAtEnd s = lv) ∧ (s.busy = false → hstatKind s.hstat = 0 → s.lineCs = lv)

/-- No cycle changes the level that CS ends at. -/
theorem CycleStep.csReaches {s t : State} (h : CycleStep s t) (hb : s.busy = true) : csReaches (csAtEnd s) t := by
  cases h with
  | completes hc => exact ⟨nofun, fun _ _ => by simp [csAtEnd, hc]⟩
  | internal call hc ha =>
    obtain ⟨hfr, htpc, -, -, -, hw, -⟩ := internalEffect_frame s call
    have hcs : (internalEffect s call).lineCs = s.lineCs := congrArg Wires.lineCs hw
    refine ⟨fun _ => ?_, fun hidle => by cases hidle.symm.trans (hfr.busy.trans hb)⟩
    rw [csAtEnd_of_bpc_zero rfl, csAtEnd_of_call hc, List.drop_eq_nil_of_le (List.getElem?_eq_none_iff.1 ha)]
    simp [hfr.cfg, hfr.tcl, htpc, hcs, drivenBy]
  | sent call a hc ha =>
    have hfr := succeed_frame a s
    have hcs := (succeed_follows a s).cs
    refine ⟨fun _ => ?_, fun hidle => by
      cases hidle.symm.trans ((hfr.call.trans (advance_frame _ _)).busy.trans hb)⟩
    rw [csAtEnd_of_call hc, drivenBy_drop ha, ← hcs]
    obtain ⟨-, he⟩ | ⟨hlast, he⟩ := advance_cases (expansion s call).length (succeed s a) <;> rw [he]
    · rw [csAtEnd_atBpc (by rw [hfr.tcl, hfr.tpc]; exact hc), expansion_congr hfr.cfg hfr.fb, hfr.cfg, hfr.tcl,
        hfr.tpc, hfr.bpc]
    · rw [hfr.bpc] at hlast
      rw [csAtEnd_of_bpc_zero rfl, List.drop_eq_nil_of_le hlast]
      simp [hfr.cfg, hfr.tcl, hfr.tpc, drivenBy]
  | failed call a c n =>
    refine ⟨nofun, fun _ hk => ?_⟩
    rw [abort_hstat, hstatKind_mkHstat] at hk
    cases hk

/-- An accepted operation that ends without error leaves CS where its calls leave it. -/
theorem runToIdle_begun_cs (i : Instr) (s : State) (hk : hstatKind (runToIdle (begun i s)).hstat = 0) :
    (runToIdle (begun i s)).lineCs = csAfter s.cfg (busLoad s.cfg (opCalls i s)) s.lineCs := by
  have hstart : csAtEnd (begun i s) = csAfter s.cfg (busLoad s.cfg (opCalls i s)) s.lineCs := by
    have hcs : (begun i s).lineCs = s.lineCs := congrArg Wires.lineCs (begun_wires i s)
    simp [csAtEnd_of_bpc_zero, hcs]
  have hreach : csReaches (csAtEnd (begun i s)) (runToIdle (begun i s)) := by
    refine runToIdle_induct (P := csReaches _) (fun u hb hu => ?_) _
      ⟨fun _ => rfl, fun hidle => by cases hidle.symm.trans (begun_busy i s)⟩
    rw [← hu.1 hb]
    exact (seqStep_cycle u).csReaches hb
  rw [← hstart]
  exact hreach.2 (runToIdle_begun_busy i s) hk

/-- A cycle that completes a call performs its last bus action. -/
theorem CycleStep.last_action {s t : State} {call : TransportCall} (h : CycleStep s t)
    (hc : s.tcl[s.tpc]? = some call) (hlt : s.bpc < (expansion s call).length) (ht : t.tpc = s.tpc + 1) :
    ∃ a, (expansion s call).getLast? = some a ∧ t.wires = (succeed s a).wires := by
  cases h with
  | completes hnone => cases hnone.symm.trans hc
  | internal call' hc' ha =>
    cases hc'.symm.trans hc
    exact absurd (List.getElem?_eq_none_iff.1 ha) (by omega)
  | sent call' a hc' ha =>
    cases hc'.symm.trans hc
    have hfr := succeed_frame a s
    obtain ⟨-, he⟩ | ⟨hlast, -⟩ := advance_cases (expansion s call).length (succeed s a)
    · rw [he] at ht
      have : (succeed s a).tpc = s.tpc + 1 := ht
      rw [hfr.tpc] at this
      omega
    · rw [hfr.bpc] at hlast
      refine ⟨a, ?_, advance_wires _ _⟩
      rw [List.getLast?_eq_getElem?, show (expansion s call).length - 1 = s.bpc by omega, ha]
  | failed call' a c n =>
    rw [abort_tpc, (performFailed_frame a n _).tpc, takeAnswer_tpc] at ht
    omega

/-- Settles O54: a call that sends something ends in the action that drives CS high, and over an operation that
meets no error the level that CS ends at is known from its calls. -/
theorem csIsHighAfterCompletedCalls : Obligations.CsIsHighAfterCompletedCalls := by
  unfold Obligations.CsIsHighAfterCompletedCalls
  refine ⟨fun s t call hb hbus hcs hc hl hlt hstep htpc => ?_, fun i s t h hk => ?_⟩
  · have hgo : fetch s = .goes (seqStep s) := if_pos hb
    cases (step_of_goes hgo).symm.trans hstep
    obtain ⟨a, hlast, hw⟩ := (seqStep_cycle s).last_action hc hlt htpc
    obtain ⟨acts, he⟩ := expansion_ends_high hbus hcs hl
    obtain rfl : BusAction.pin .cs true = a := by simpa [he] using hlast
    rw [succeed_wires] at hw
    exact congrArg Wires.lineCs hw
  · cases hi : isHostOp i with
    | false =>
      obtain ⟨r, hr, -⟩ := exec_panelUnit i s hi
      cases hr.symm.trans h
      exact ⟨id, nofun⟩
    | true =>
      obtain ⟨-, ⟨hrej, rfl⟩ | ⟨-, -, rfl⟩⟩ := exec_hostOp_cases hi h
      · refine ⟨id, fun _ ha ho => ?_⟩
        simp [ha.2, ho] at hrej
      · rw [runToIdle_begun_cs i s hk]
        exact ⟨fun hlo => csAfter_ne_lo hlo _ _, fun _ _ _ hbus hcs hl => csAfter_send hbus hcs hl _⟩

end Sys2Proof.Machine

/-! WRITE_CMD and WRITE_DATA: an operation of one transport call that sends something, what the panel makes of the
bytes it delivers, and where a failed transfer leaves the lines (rules R98, R141, R142, R156, R240 to R248,
R317). -/

namespace Sys2Proof.Machine

/-! ## One transport call that sends something -/

/-- A call that sends something, and the level it leaves D/C at on SPI (rules R151 to R154). -/
inductive SendsAt : TransportCall → Level → Prop
  | cmd (c : Byte) : SendsAt (.cmd c) .lo
  | data (l : List Byte) : SendsAt (.data l) .hi
  | dataFb (p : Nat) : SendsAt (.dataFb p) .hi

theorem SendsAt.noFb {call : TransportCall} {dc : Level} (h : SendsAt call dc) : noFb call = true := by
  cases h <;> rfl

theorem SendsAt.wires {call : TransportCall} {dc : Level} (h : SendsAt call dc) (s : State) :
    (runCall s call).wires = wiresAfter dc s.wires := by
  refine wires_send s call dc ?_
  cases h with
  | cmd c => exact .inl ⟨rfl, c, rfl⟩
  | data l => exact .inr ⟨rfl, .inl ⟨l, rfl⟩⟩
  | dataFb p => exact .inr ⟨rfl, .inr ⟨p, rfl⟩⟩

/-- An accepted operation of one transport call that meets no error runs it and completes (rule R120). -/
theorem exec_one_call {i : Instr} {s : State} {call : TransportCall} (hi : isHostOp i = true) (hne : i ≠ .init)
    (hc : opCalls i s = [call]) (ha : s.accepts) (ho : operandLegal i s = true)
    (hok : s.answersOk (busLoad s.cfg [call])) : exec i s = .next (afterCall i call s) := by
  rw [exec_accepted hi ha ho, begun_of_ne_init hne, hc, runToIdle_ok _ rfl rfl rfl hok]
  rfl

theorem afterCall_completesAs (i : Instr) {call : TransportCall} {dc : Level} (h : SendsAt call dc) (s : State) :
    completesAs (opWord i) [call] s (afterCall i call s) :=
  completesAs_complete _ _ s fun _ hc => List.mem_singleton.1 hc ▸ h.noFb

theorem afterCall_linesAfter (i : Instr) {call : TransportCall} {dc : Level} (h : SendsAt call dc) (s : State) :
    linesAfter dc s (afterCall i call s) :=
  linesAfter_of dc s _ (h.wires (beginOp _ _ s))

/-! ## The end of a transfer -/

/-- At the end of a transfer only the frame handler changes (rule R234). -/
theorem settledRx_eq (c : Cfg) (r : Rx) : settledRx c r = r.onPanel (settled c) := by
  unfold settledRx
  cases hb : c.bus with
  | spi => simp [Rx.onPanel, settled, hb]
  | i2c => simp only [i2cStop, settled, hb, Rx.onPanel]; split <;> rfl

theorem settledRx_withPanel (s : State) (p : Panel) :
    settledRx s.cfg (withPanel s p) = withPanel s (settled s.cfg p) := settledRx_eq _ _

theorem settled_cases (c : Cfg) (p : Panel) : settled c p = p ∨ settled c p = { p with fh := .dropped } := by
  unfold settled
  cases c.bus with
  | spi => exact .inl rfl
  | i2c =>
    dsimp only
    split
    · exact .inr rfl
    · exact .inl rfl

@[simp] theorem settled_standing (c : Cfg) (p : Panel) : (settled c p).standing = p.standing := by
  obtain h | h := settled_cases c p <;> rw [h]

@[simp] theorem settled_pram (c : Cfg) (p : Panel) : (settled c p).pram = p.pram := by
  obtain h | h := settled_cases c p <;> rw [h]

@[simp] theorem settled_ramDraw (c : Cfg) (p : Panel) : (settled c p).ramDraw = p.ramDraw := by
  obtain h | h := settled_cases c p <;> rw [h]

theorem settledRx_rejected {r : Rx} (h : Rejected r) (c : Cfg) : Rejected (settledRx c r) := by
  rw [settledRx_eq]
  exact ⟨h.refused, (settled_standing c _).trans h.standing⟩

/-! ## A command byte to a panel that listens -/

/-- What a command does to the panel's fields (rules R241, R243 to R247). -/
def Panel.obey (cmd : PanelCmd) (p : Panel) : Panel :=
  match cmd with
  | .lowCol lo => p.setLowCol lo
  | .highCol hi => p.setHighCol hi
  | .contrastFirst => p.awaitContrast
  | .normInv flag => p.setNormInv flag
  | .disp flag => p.setDisp flag
  | .page n => p.setPage n

/-- A byte that decodes to a command, to a panel that awaits no contrast value, is that command (rule R98). -/
theorem deliverCmd_decoded {s : State} (hh : s.hears) (hp : s.panel.cpend = false) {b : Byte} {cmd : PanelCmd}
    (hb : decodeCommand b = some cmd) :
    deliverCmd s.wires b s.rx = withPanel s (s.panel.heard.obey cmd) := by
  obtain ⟨hk, hd⟩ := hh
  rw [deliverCmd_hears _ b _ hk hd, rx_panel, hp, if_neg Bool.false_ne_true, commandEffect, hb]
  cases cmd <;> rfl

/-- Two command bytes of one instruction are the same byte. -/
theorem decodeCommand_of_decode {b b' : Byte} {i : Instr} (he : encode i = .wire .cmd [b'])
    (h : decode (.wire .cmd [b]) = .ok i) : decodeCommand b = decodeCommand b' := by
  have hb := (decodedWordEncodesBack _ _ h).1
  rw [he] at hb
  cases hb
  rfl

theorem decodeCommand_of_unmodelled {b : Byte} (h : decode (.wire .cmd [b]) = .error .unmodelledCommand) :
    decodeCommand b = none := by
  cases hb : decodeCommand b with
  | none => rfl
  | some cmd => cases cmd <;> simp [decode, decodeWire, decodeCmdUnit, hb] at h

/-- The panel's side after an operation of one CMD, when the panel listens. -/
theorem afterCall_cmd_rx (i : Instr) {s : State} (hl : s.panelListens) {c : Byte}
    (hok : s.answersOk (busLoad s.cfg [.cmd c])) :
    (afterCall i (.cmd c) s).rx = settledRx s.cfg (deliverCmd s.wires c s.rx) := by
  obtain ⟨hinit, hears, hwired⟩ := hl
  exact (runCall_cmd (beginOp _ _ s) c (fun _ => hinit) hears hwired hok).1

/-- Settles O17: the byte is delivered once, and the panel takes it as the awaited value, as its command, or refuses
it. -/
theorem writeCmdSendsOneCommand : Obligations.WriteCmdSendsOneCommand := by
  unfold Obligations.WriteCmdSendsOneCommand
  intro s c ha hok
  have hexec := exec_one_call (i := .writeCmd c) rfl nofun rfl ha rfl hok
  obtain ⟨-, -, -, hinit, hlife, -⟩ := instructionsKeepWhatTheyDoNotWrite _ _ _ hexec
  refine ⟨_, hexec, afterCall_completesAs (.writeCmd c) (.cmd c) s, afterCall_linesAfter _ (.cmd c) s,
    hlife nofun nofun nofun nofun nofun, hinit nofun, fun hl => ?_⟩
  have hrx := afterCall_cmd_rx (.writeCmd c) hl hok
  have hh : s.hears := hl.2.1
  have hcmd {cmd : PanelCmd} (hp : s.panel.cpend = false) (hc : decodeCommand c = some cmd) :
      (afterCall (.writeCmd c) (.cmd c) s).rx = withPanel s (settled s.cfg (s.panel.heard.obey cmd)) := by
    rw [hrx, deliverCmd_decoded hh hp hc, settledRx_withPanel]
  refine ⟨fun hp => ?_,
    fun lo hp hd => hcmd hp ((decodeCommand_of_decode rfl hd).trans (decodeCommand_lowColByte lo)),
    fun hi hp hd => hcmd hp ((decodeCommand_of_decode rfl hd).trans (decodeCommand_highColByte hi)),
    fun p hp hd => hcmd hp ((decodeCommand_of_decode rfl hd).trans (decodeCommand_pageByte p)),
    fun f hp hd => hcmd hp ((decodeCommand_of_decode rfl hd).trans (decodeCommand_normInvByte f)),
    fun f hp hd => hcmd hp ((decodeCommand_of_decode rfl hd).trans (decodeCommand_dispByte f)),
    fun hp hc => hcmd (cmd := .contrastFirst) hp (by rw [hc]; rfl), fun hp hd => ?_⟩
  · rw [hrx, deliverCmd_awaited hh hp, settledRx_withPanel]
  · have hrej := settledRx_rejected
      (deliverCmd_unmodelled (r := s.rx) hh.1 hh.2 hp (decodeCommand_of_unmodelled hd)) s.cfg
    rw [← hrx] at hrej
    exact ⟨hrej.refused, hrej.standing⟩

/-! ## Data bytes to a panel that listens -/

/-- The display memory with bytes stored in a page from a column on (rule R240). -/
def putRow (pg : Nat) : Nat → List Byte → Memory → Memory
  | _, [], m => m
  | col, b :: l, m => putRow pg (col + 1) l (Memory.put m (pramAddr pg col) b)

/-- A read of a place after a row has been stored: a byte of the row, or the byte of before. -/
theorem byte?_putRow (pg : Nat) (l : List Byte) (col : Nat) (m : Memory) (pg' col' : Nat) :
    Memory.byte? (putRow pg col l m) (pramAddr pg' col') =
      if pg' = pg ∧ col ≤ col' ∧ col' < col + l.length then l[col' - col]?
      else Memory.byte? m (pramAddr pg' col') := by
  induction l generalizing col m with
  | nil => simp only [putRow, List.length_nil]; rw [if_neg (by omega)]
  | cons b l ih =>
    simp only [putRow, ih, byte?_put, pramAddr_inj, List.length_cons]
    by_cases hfirst : pg' = pg ∧ col' = col
    · obtain ⟨rfl, rfl⟩ := hfirst
      rw [if_neg (by omega), if_pos ⟨rfl, rfl⟩, if_pos (by omega), Nat.sub_self, List.getElem?_cons_zero]
    · rw [if_neg hfirst]
      by_cases hrest : pg' = pg ∧ col + 1 ≤ col' ∧ col' < col + 1 + l.length
      · rw [if_pos hrest, if_pos (by omega), show col' - col = col' - (col + 1) + 1 by omega,
          List.getElem?_cons_succ]
      · rw [if_neg hrest, if_neg (by omega)]

/-- The panel with a block of data bytes stored at its page and column and the ones after it (rule R240). -/
def Panel.storeRow (l : List Byte) (p : Panel) : Panel :=
  { p with
    pram := putRow p.page.toNat p.col.toNat l p.pram
    col := p.col + BitVec.ofNat 8 l.length
    standing := if l = [] then p.standing else .ordinary }

theorem storeRow_nil (p : Panel) : p.storeRow [] = p := by simp [Panel.storeRow, putRow]

/-- A block is its first byte and the rest, where the column address does not leave its 8 bits. -/
theorem storeRow_cons (b : Byte) (l : List Byte) (p : Panel) (h : p.col.toNat + 1 < 256) :
    (p.storeRow [b]).storeRow l = p.storeRow (b :: l) := by
  have hcol : (p.col + 1#8).toNat = p.col.toNat + 1 := by
    rw [BitVec.toNat_add]
    exact Nat.mod_eq_of_lt h
  have hlen : BitVec.ofNat 8 (l.length + 1) = 1#8 + BitVec.ofNat 8 l.length := by
    rw [Nat.add_comm, BitVec.ofNat_add]
  simp [Panel.storeRow, putRow, hcol, hlen, BitVec.add_assoc]

/-- Where the panel can store the next `n` data bytes: it hears them, awaits no contrast value, and they lie in its
memory and in the 8 bits of the column address (rule R240; log 11). -/
structure HasRoom (w : Wires) (r : Rx) (n : Nat) : Prop where
  known : r.panel.standing.known = true
  idle : duringReset w r = false
  cpend : r.panel.cpend = false
  page : r.panel.page.toNat < w.par.panelPages
  cols : r.panel.col.toNat + n ≤ w.par.panelCols
  bits : r.panel.col.toNat + n < 256

/-- A data byte at a column that is not the last of the 8 bits (rule R240). -/
theorem storeData_of_not_end (b : Byte) {r : Rx} (h : r.panel.colAtEnd = false) :
    storeData b r = r.onPanel fun p =>
      { p with pram := Memory.put p.pram (pramAddr p.page.toNat p.col.toNat) b, col := p.col + 1 } := by
  simp [storeData, Rx.onPanel, h]

/-- One data byte where there is room for it. -/
theorem deliverData_stores {w : Wires} {r : Rx} {n : Nat} (h : HasRoom w r (n + 1)) (b : Byte) :
    deliverData w b r = r.onPanel (Panel.storeRow [b]) := by
  obtain ⟨hk, hd, hp, hpage, hcols, hbits⟩ := h
  have hin : outsideRam w r.panel = false := by
    simp only [outsideRam, Bool.or_eq_false_iff, decide_eq_false_iff_not]
    omega
  have hend : r.panel.colAtEnd = false := beq_false_of_ne fun he => by
    rw [he, show (0xFF : BitVec 8).toNat = 255 from rfl] at hbits
    omega
  rw [deliverData_hears w b r hk hd, hp, hin, Bool.or_false, if_neg Bool.false_ne_true,
    storeData_of_not_end b (r := r.onPanel Panel.heard) hend]
  rfl

/-- After a byte there is room for the rest. -/
theorem HasRoom.next {w : Wires} {r : Rx} {n : Nat} (h : HasRoom w r (n + 1)) (b : Byte) :
    HasRoom w (r.onPanel (Panel.storeRow [b])) n := by
  obtain ⟨-, hd, hp, hpage, hcols, hbits⟩ := h
  have hcol : (r.panel.storeRow [b]).col.toNat = r.panel.col.toNat + 1 := by
    refine (BitVec.toNat_add _ _).trans (Nat.mod_eq_of_lt ?_)
    change r.panel.col.toNat + 1 < 256
    omega
  exact ⟨rfl, hd, hp, hpage, by rw [onPanel_panel, hcol]; omega, by rw [onPanel_panel, hcol]; omega⟩

/-- A block of data bytes where there is room for it. -/
theorem deliverAll_stores {w : Wires} {r : Rx} {l : List Byte} (h : HasRoom w r l.length) :
    deliverAll w l r = r.onPanel (Panel.storeRow l) := by
  induction l generalizing r with
  | nil => rw [Rx.onPanel, storeRow_nil]; rfl
  | cons b l ih =>
    have hbits := h.bits
    rw [List.length_cons] at hbits
    calc deliverAll w (b :: l) r
      _ = deliverAll w l (deliverData w b r) := rfl
      _ = (r.onPanel (Panel.storeRow [b])).onPanel (Panel.storeRow l) := by
        rw [deliverData_stores h, ih (h.next b)]
      _ = r.onPanel (Panel.storeRow (b :: l)) := by
        rw [Rx.onPanel, Rx.onPanel, storeRow_cons b l _ (by omega)]
        rfl

/-- The display memory after a block: the places from the column on hold its bytes, as far as it goes. -/
theorem pramByte_storeRow (l : List Byte) (p : Panel) (pg col : Nat) :
    pramByte (p.storeRow l) pg col =
      if pg = p.page.toNat ∧ p.col.toNat ≤ col then l.getD (col - p.col.toNat) (pramByte p pg col)
      else pramByte p pg col := by
  simp only [pramByte, Panel.storeRow, byte?_putRow, List.getD_eq_getElem?_getD]
  by_cases hrow : pg = p.page.toNat ∧ p.col.toNat ≤ col
  · rw [if_pos hrow]
    by_cases hlt : col - p.col.toNat < l.length
    · rw [if_pos (by omega), List.getElem?_eq_getElem hlt]
      rfl
    · rw [if_neg (by omega), List.getElem?_eq_none (by omega)]
      rfl
  · rw [if_neg hrow, if_neg (by omega)]

/-- The panel's side after an operation of one DATA, when the panel listens. -/
theorem afterCall_data_rx (i : Instr) {s : State} (hl : s.panelListens) {l : List Byte}
    (hok : s.answersOk (busLoad s.cfg [.data l])) :
    (afterCall i (.data l) s).rx = settledRx s.cfg (deliverAll s.wires l s.rx) := by
  obtain ⟨hinit, hears, hwired⟩ := hl
  exact (runCall_data (beginOp _ _ s) l (fun _ => hinit) hears hwired hok).1

theorem operandLegal_writeData (s : State) :
    operandLegal .writeData s = true ↔ s.hdata.length ≤ s.par.maxData := by simp [operandLegal, WellFormed]

/-- Settles O18: the bytes are delivered in order, and a panel that has room for them stores each at the next
column. -/
theorem writeDataSendsTheBlock : Obligations.WriteDataSendsTheBlock := by
  unfold Obligations.WriteDataSendsTheBlock
  refine fun s ha => ⟨fun hlen hok => ?_,
    fun hlong => exec_illegal rfl ha (by rw [operandLegal_writeData]; omega)⟩
  have hexec := exec_one_call (i := .writeData) rfl nofun rfl ha ((operandLegal_writeData s).2 hlen) hok
  obtain ⟨-, -, -, hinit, hlife, -⟩ := instructionsKeepWhatTheyDoNotWrite _ _ _ hexec
  refine ⟨_, hexec, afterCall_completesAs .writeData (.data s.hdata) s, afterCall_linesAfter _ (.data s.hdata) s,
    hlife nofun nofun nofun nofun nofun, hinit nofun, fun hl hp hpage hcols hbits => ?_⟩
  have hrx : (afterCall .writeData (.data s.hdata) s).rx =
      withPanel s (settled s.cfg (s.panel.storeRow s.hdata)) := by
    rw [afterCall_data_rx _ hl hok, deliverAll_stores ⟨hl.2.1.1, hl.2.1.2, hp, hpage, hcols, hbits⟩, settledRx_eq]
    rfl
  have hpanel : (afterCall .writeData (.data s.hdata) s).panel = settled s.cfg (s.panel.storeRow s.hdata) :=
    congrArg Rx.panel hrx
  refine ⟨?_, fun pg col => ?_⟩
  · rw [hrx, hpanel, settled_pram]
    rfl
  · rw [hpanel, ← pramByte_storeRow]
    simp [pramByte]

/-! ## A bus action that fails -/

/-- A bus action that can fail with some cause can fail (rule R66). -/
theorem fallible_of_allows {a : BusAction} {c : Cause} (h : a.allows c = true) : a.fallible = true := by
  cases a with
  | pin _ _ | wait _ => cases h
  | i2cTxn _ | spiCfg _ | spiXfer _ => rfl

/-- What is left of the answers after a bus action that succeeds. -/
theorem answersOk_succeed {s : State} {a : BusAction} {acts : List BusAction}
    (h : s.answersOk (fallibleCount (a :: acts))) : (succeed s a).answersOk (fallibleCount acts) := by
  rw [fallibleCount, List.countP_cons, Nat.add_comm] at h
  unfold State.answersOk
  rw [succeed_answers]
  exact (answersOk_add h).2

/-- A cycle whose bus action succeeds. -/
theorem seqStep_succeeds {s : State} {call : TransportCall} {a : BusAction} (hc : s.tcl[s.tpc]? = some call)
    (ha : (expansion s call)[s.bpc]? = some a) (hok : a.fallible = true → nextAnswer s = .ok) :
    seqStep s = advance (expansion s call).length (succeed s a) := by
  simp only [seqStep, hc, ha]
  exact busStep_ok a _ s hok

/-- A cycle whose bus action fails (rule R273). -/
theorem seqStep_fails {s : State} {call : TransportCall} {a : BusAction} {c : Cause} {k : Nat}
    (hc : s.tcl[s.tpc]? = some call) (ha : (expansion s call)[s.bpc]? = some a) (hall : a.allows c = true)
    (herr : nextAnswer s = .err c k) : seqStep s = abort c (performFailed a k (takeAnswer s)) := by
  simp only [seqStep, hc, ha, busStep, fallible_of_allows hall, if_true, herr, admissible, hall]

theorem expansion_atBpc (s : State) (j : Nat) (call : TransportCall) :
    expansion (atBpc s j) call = expansion s call := expansion_congr (s := s) rfl rfl call

/-- Bus actions of a transport call that all succeed, short of its end. -/
theorem seqRun_within {call : TransportCall} {acts done rest : List BusAction} {s : State} (n : Nat)
    (hb : s.busy = true) (hc : s.tcl[s.tpc]? = some call) (he : expansion s call = done ++ acts ++ rest)
    (hrest : rest ≠ []) (hp : s.bpc = done.length) (ha : s.answersOk (fallibleCount acts)) :
    seqRun (acts.length + n) s = seqRun n (atBpc (succeedAll acts s) (done.length + acts.length)) := by
  induction acts generalizing s done with
  | nil => rw [List.length_nil, Nat.zero_add, Nat.add_zero, ← hp]; rfl
  | cons a acts ih =>
    have hfr := succeed_frame a s
    have hok : a.fallible = true → nextAnswer s = .ok := fun hf =>
      (answersOk_succ (n := fallibleCount acts) (by simpa [fallibleCount, hf] using ha)).1
    have hmore : (succeed s a).bpc + 1 < (expansion s call).length := by
      have := List.length_pos_iff.2 hrest
      simp only [hfr.bpc, hp, he, List.length_append, List.length_cons]
      omega
    have hstep : seqStep s = atBpc (succeed s a) (done.length + 1) := by
      rw [seqStep_succeeds hc (by simp [he, hp]) hok, advance, if_pos hmore, hfr.bpc, hp]
      rfl
    have hnext := ih (done := done ++ [a]) (s := atBpc (succeed s a) (done.length + 1)) (hfr.busy.trans hb)
      (by simpa [atBpc, hfr.tcl, hfr.tpc] using hc)
      (by rw [expansion_atBpc, expansion_congr hfr.cfg hfr.fb, he]; simp) (by simp [atBpc]) (answersOk_succeed ha)
    calc seqRun ((a :: acts).length + n) s
      _ = seqRun (acts.length + n + 1) s := by rw [List.length_cons, Nat.add_right_comm]
      _ = seqRun (acts.length + n) (atBpc (succeed s a) (done.length + 1)) := by rw [seqRun, if_pos hb, hstep]
      _ = seqRun n (atBpc (succeedAll (a :: acts) s) (done.length + (a :: acts).length)) := by
        rw [hnext, succeedAll_atBpc, List.length_append, List.length_singleton, List.length_cons, Nat.add_assoc,
          Nat.add_comm 1]
        rfl

/-- The end of an operation whose first call fails at the bus action `a`, with the cause `c` and after `k` of its
bytes, all of `acts` before it having succeeded (rules R273, R274). -/
def failedAfter (acts : List BusAction) (a : BusAction) (c : Cause) (k : Nat) (s : State) : State :=
  abort c (performFailed a k (takeAnswer (atBpc (succeedAll acts s) acts.length)))

/-- An operation runs to the bus action of its first call that fails, and ends there (rule R273). -/
theorem runToIdle_fails {s : State} {call : TransportCall} {calls : List TransportCall}
    {acts rest : List BusAction} {a : BusAction} {c : Cause} {k : Nat} {left : List BusAnswer}
    (hb : s.busy = true) (ht : s.tcl = call :: calls) (htpc : s.tpc = 0) (hbpc : s.bpc = 0)
    (he : expansion s call = acts ++ a :: rest) (hall : a.allows c = true)
    (hans : s.answers = List.replicate (fallibleCount acts) .ok ++ .err c k :: left) :
    runToIdle s = failedAfter acts a c k s := by
  have hfr := succeedAll_frame acts s
  have hc : s.tcl[s.tpc]? = some call := by simp [ht, htpc]
  have hlen := length_expansion s call
  rw [he, List.length_append, List.length_cons] at hlen
  obtain ⟨m, hm⟩ : ∃ m, opFuel s = acts.length + (m + 1) :=
    ⟨opFuel s - acts.length - 1, by simp only [opFuel, ht, List.length_cons]; omega⟩
  have hfail : seqStep (atBpc (succeedAll acts s) acts.length) = failedAfter acts a c k s := by
    refine seqStep_fails (call := call) (by simpa [atBpc, hfr.tcl, hfr.tpc] using hc) ?_ hall ?_
    · rw [expansion_atBpc, expansion_congr hfr.cfg hfr.fb, he]
      simp [atBpc]
    · simp [nextAnswer, atBpc, succeedAll_answers, hans]
  rw [runToIdle, hm, seqRun_within (done := []) (m + 1) hb hc he (by simp) (by simpa using hbpc)
    (by simp [State.answersOk, hans]), List.length_nil, Nat.zero_add, seqRun,
    if_pos (show (atBpc (succeedAll acts s) acts.length).busy = true from hfr.busy.trans hb), hfail]
  exact seqRun_idle _ _ rfl

theorem failedAfter_kind (acts : List BusAction) (a : BusAction) (c : Cause) (k : Nat) (s : State) :
    hstatKind (failedAfter acts a c k s).hstat = 2 := hstatKind_mkHstat ..

/-- The lines stand where the bus actions before the failure have put them (rules R66, R156). -/
theorem failedAfter_lines {acts : List BusAction} {a : BusAction} {c : Cause} (hall : a.allows c = true) (k : Nat)
    (s : State) :
    (failedAfter acts a c k s).lineRes = (succeedAll acts s).lineRes ∧
      (failedAfter acts a c k s).lineDc = (succeedAll acts s).lineDc ∧
      (failedAfter acts a c k s).lineCs = (succeedAll acts s).lineCs := by
  have h := performFailed_lines (fallible_of_allows hall) k (takeAnswer (atBpc (succeedAll acts s) acts.length))
  rwa [takeAnswer_lineRes, takeAnswer_lineDc, takeAnswer_lineCs] at h

/-! ## A transfer that fails -/

/-- What a transfer with a CS line does before its bytes: it configures the bus, and selects the panel (rule
R151). -/
def selectActions (c : Cfg) (dc : Bool) : List BusAction :=
  [.spiCfg (blockMode c), .pin .cs true, .pin .dc dc, .pin .cs false]

theorem spiActions_select {c : Cfg} (hc : c.hasCs = true) (dc : Bool) (l : List Byte) :
    spiActions c dc l = selectActions c dc ++ .spiXfer l :: [.pin .cs true] := spiActions_cs hc dc l

/-- An accepted WRITE_CMD on SPI that fails. -/
theorem exec_writeCmd_fails {s : State} (ha : s.accepts) (hbus : s.cfg.bus = .spi) {c : Byte} {cause : Cause}
    {acts rest : List BusAction} {a : BusAction} {k : Nat} {left : List BusAnswer}
    (he : spiActions s.cfg false [c] = acts ++ a :: rest) (hall : a.allows cause = true)
    (hans : s.answers = List.replicate (fallibleCount acts) .ok ++ .err cause k :: left) :
    exec (.writeCmd c) s = .next (failedAfter acts a cause k (begun (.writeCmd c) s)) := by
  have hexp : expansion (begun (.writeCmd c) s) (.cmd c) = acts ++ a :: rest :=
    (expansion_cmd_spi (s := begun (.writeCmd c) s) hbus c).trans he
  rw [exec_accepted rfl ha rfl, runToIdle_fails (calls := []) rfl rfl rfl rfl hexp hall hans]

/-- A WRITE_CMD on SPI that succeeds leaves CS high, wherever it found it (rule R155). -/
theorem exec_writeCmd_raises_cs {s : State} (ha : s.accepts) (hbus : s.cfg.bus = .spi) (hcs : s.cfg.hasCs = true)
    (hok : s.answersOk 2) (d : Byte) :
    ∃ u, exec (.writeCmd d) s = .next u ∧ hstatKind u.hstat = 0 ∧ u.lineCs = .hi := by
  have hload : busLoad s.cfg [.cmd d] = 2 := by simp [busLoad, callLoad, hbus]
  have hexec := exec_one_call (i := .writeCmd d) rfl nofun rfl ha rfl (by rwa [hload])
  have hkind : hstatKind (afterCall (.writeCmd d) (.cmd d) s).hstat = 0 := hstatKind_mkHstat ..
  refine ⟨_, hexec, hkind, ((csIsHighAfterCompletedCalls.2 _ _ _ hexec hkind).2 rfl ha rfl hbus hcs ?_)⟩
  simp [opCalls, hload]

/-- Settles O33: at a failed SPI_CFG no line has been driven, at a failed transfer the panel has been selected, and a
WRITE_CMD that succeeds leaves CS high. -/
theorem failedTransferLeavesCsLow : Obligations.FailedTransferLeavesCsLow := by
  unfold Obligations.FailedTransferLeavesCsLow
  intro s c cause n rest ha hbus hcs
  refine ⟨fun hall hans => ?_, fun hall hans => ?_⟩
  · exact ⟨_, exec_writeCmd_fails (acts := []) ha hbus (spiActions_cs hcs false [c]) hall hans,
      failedAfter_kind .., failedAfter_lines hall ..⟩
  · have hexec := exec_writeCmd_fails (acts := selectActions s.cfg false) ha hbus
      (spiActions_select hcs false [c]) hall hans
    obtain ⟨-, hdc, hlow⟩ := failedAfter_lines (acts := selectActions s.cfg false) hall n (begun (.writeCmd c) s)
    have hw := succeedAll_wires (selectActions s.cfg false) (begun (.writeCmd c) s)
    obtain ⟨-, -, -, -, hcfg, -, hdead, -⟩ := exec_sameHost hexec
    exact ⟨_, hexec, failedAfter_kind .., hdc.trans (congrArg Wires.lineDc hw), hlow.trans (congrArg Wires.lineCs hw),
      fun d hok => exec_writeCmd_raises_cs ⟨rfl, hdead.trans ha.2⟩ ((congrArg Cfg.bus hcfg).trans hbus)
        ((congrArg Cfg.hasCs hcfg).trans hcs) hok d⟩

end Sys2Proof.Machine

/-! An operation that meets no error, as a whole: its transport calls one after the other, what they make of the
wire trace, the lines, the framebuffer and `LIFECYCLE`, and its end (rules R26, R120, R143, R180, R190, R271). -/

namespace Sys2Proof.Machine

/-! ## The end of an operation -/

/-- The end of an accepted operation that meets no error: all its transport calls, and the completion. -/
def ended (i : Instr) (s : State) : State := complete (runCalls (opCalls i s) (begun i s))

/-- An accepted operation with a legal operand and no bus error runs all its calls and completes (rule R120). -/
theorem exec_ended {i : Instr} {s : State} (hi : isHostOp i = true) (ha : s.accepts) (ho : operandLegal i s = true)
    (hok : s.answersOk (busLoad s.cfg (opCalls i s))) : exec i s = .next (ended i s) := by
  have hbegun : (begun i s).answersOk (busLoad (begun i s).cfg (begun i s).tcl) := by
    simpa [State.answersOk] using hok
  rw [exec_accepted hi ha ho, runToIdle_ok _ (begun_busy i s) (begun_tpc i s) (begun_bpc i s) hbegun, begun_tcl]
  rfl

/-- An accepted operation at its start is one just latched, whatever its start has done to `LIFECYCLE` and the
panel. -/
theorem begun_eq_beginOp (i : Instr) (s : State) :
    ∃ u, begun i s = beginOp (opWord i) (opCalls i s) u :=
  ⟨{ s with lifecycle := (begun i s).lifecycle, panel := (begun i s).panel, draws := (begun i s).draws },
    begun_eq i s⟩

theorem ended_endedOk (i : Instr) (s : State) : endedOk (opWord i) (opCalls i s) (ended i s) := by
  obtain ⟨u, hu⟩ := begun_eq_beginOp i s
  rw [ended, hu]
  exact endedOk_complete _ _ u

theorem ended_kind (i : Instr) (s : State) : hstatKind (ended i s).hstat = 0 := hstatKind_mkHstat ..

/-- An operation other than INIT without FB access ends as its calls leave it. -/
theorem ended_completesAs {i : Instr} {s : State} (hne : i ≠ .init)
    (hf : ∀ call ∈ opCalls i s, noFb call = true) : completesAs (opWord i) (opCalls i s) s (ended i s) := by
  rw [ended, begun_of_ne_init hne]
  exact completesAs_complete _ _ s hf

theorem completesAs.trace {w : HopWord} {calls : List TransportCall} {s t : State} (h : completesAs w calls s t) :
    t.trace = s.trace ++ wireOf s calls := by
  obtain ⟨-, -, htrace, -⟩ := h
  exact htrace

/-! ## Calls in sequence -/

theorem runCalls_append (calls calls' : List TransportCall) (s : State) :
    runCalls (calls ++ calls') s = runCalls calls' (runCalls calls s) := List.foldl_append

theorem runCalls_cons (call : TransportCall) (calls : List TransportCall) (s : State) :
    runCalls (call :: calls) s = runCalls calls (runCall s call) := rfl

/-- The answers for a call and for the calls behind it. -/
theorem answersOk_runCall {s : State} {call : TransportCall} {calls : List TransportCall}
    (h : s.answersOk (busLoad s.cfg (call :: calls))) :
    s.answersOk (callLoad s.cfg call) ∧ (runCall s call).answersOk (busLoad (runCall s call).cfg calls) := by
  rw [busLoad_cons] at h
  obtain ⟨hcall, hrest⟩ := answersOk_add h
  refine ⟨hcall, ?_⟩
  rwa [State.answersOk, runCall_answers, fallibleCount_expansion, (runCall_frame s call).cfg]

/-! ## `LIFECYCLE` -/

theorem runCall_curOp (s : State) (call : TransportCall) : curOp (runCall s call) = curOp s :=
  congrArg opcOf (runCall_frame s call).cur

theorem runCalls_curOp (calls : List TransportCall) (s : State) : curOp (runCalls calls s) = curOp s :=
  congrArg opcOf (runCalls_frame calls s).cur

/-- `LIFECYCLE` after a call, from the state the call begins in (rule R190). -/
theorem runCall_lifecycle (s : State) (call : TransportCall) :
    (runCall s call).lifecycle = progressLifecycle s := by
  obtain ⟨hfr, htpc, -, -, -, -, hlife⟩ := internalEffect_frame s call
  have hacts := succeedAll_frame (expansion s call) (internalEffect s call)
  have hcur : curOp (succeedAll (expansion s call) (internalEffect s call)) = curOp s :=
    congrArg opcOf (hacts.cur.trans hfr.cur)
  rw [runCall, callDone_lifecycle, progressLifecycle, progressLifecycle, hcur, hacts.tpc, htpc, hacts.cfg, hfr.cfg,
    hacts.lifecycle, hlife]

/-- The calls of an operation other than INIT do not write `LIFECYCLE`. -/
theorem runCalls_lifecycle (calls : List TransportCall) {s : State} (h : curOp s ≠ 0x08) :
    (runCalls calls s).lifecycle = s.lifecycle := by
  induction calls generalizing s with
  | nil => rfl
  | cons call calls ih =>
    rw [runCalls_cons, ih (by rwa [runCall_curOp]), runCall_lifecycle, progressLifecycle, if_neg h]

theorem begun_curOp_ne_init {i : Instr} (hi : isHostOp i = true) (hne : i ≠ .init) (s : State) :
    curOp (begun i s) ≠ 0x08 := by
  rw [begun_curOp hi]
  exact opcodeOf_ne_init hne

theorem completedLifecycle_congr {s t : State} (hc : t.cur = s.cur) (hl : t.lifecycle = s.lifecycle) :
    completedLifecycle t = completedLifecycle s := by
  rw [completedLifecycle, completedLifecycle, curOp, curOp, hc, hl]

/-- An operation other than INIT leaves `LIFECYCLE` as its completion says (rule R271). -/
theorem ended_lifecycle {i : Instr} (hi : isHostOp i = true) (hne : i ≠ .init) (s : State) :
    (ended i s).lifecycle = completedLifecycle (begun i s) :=
  completedLifecycle_congr (runCalls_frame _ _).cur (runCalls_lifecycle _ (begun_curOp_ne_init hi hne s))

/-! ## The lines -/

/-- Calls that all send something leave the lines as the last of them does (rules R150, R155). -/
theorem runCalls_wires {calls : List TransportCall} {last : TransportCall} {dc : Level}
    (h : ∀ call ∈ calls, ∃ dc, SendsAt call dc) (hlast : SendsAt last dc) (s : State) :
    (runCalls (calls ++ [last]) s).wires = wiresAfter dc s.wires := by
  induction calls generalizing s with
  | nil => exact hlast.wires s
  | cons call calls ih =>
    obtain ⟨dc', hcall⟩ := h call (by simp)
    rw [List.cons_append, runCalls_cons, ih (fun c hc => h c (by simp [hc])), hcall.wires, wiresAfter_idem]

end Sys2Proof.Machine

/-! POWERON, POWEROFF, SLEEP, CONTRAST and INVERT: command calls to a panel that listens (rules R181 to R185, R241 to
R244). -/

namespace Sys2Proof.Machine

/-! ## A panel that listens, over several calls -/

/-- The panel takes what the coming calls send, and no error is ahead: rule R191 does not stand against it, it hears,
the board is wired, the next answers are success. -/
structure Attends (s : State) (calls : List TransportCall) : Prop where
  supported : supported s
  hears : s.hears
  wired : s.wired
  answers : s.answersOk (busLoad s.cfg calls)

/-- After a call that leaves the panel modelled and in no reset it takes what the other calls send. -/
theorem Attends.next {s : State} {call : TransportCall} {calls : List TransportCall} (h : Attends s (call :: calls))
    {dc : Level} (hw : (runCall s call).wires = wiresAfter dc s.wires)
    (hk : (runCall s call).panel.standing.known = true) (hphase : (runCall s call).panel.phase = s.panel.phase) :
    Attends (runCall s call) calls where
  supported := by
    intro hop
    rw [(runCall_frame s call).initDone]
    exact h.supported (by rwa [runCall_curOp] at hop)
  hears := by
    have hres := (wiresAfter_board dc s.wires).lineRes
    refine ⟨hk, ?_⟩
    have hd := h.hears.2
    rw [duringReset, rx_panel] at hd ⊢
    rwa [hw, hres, hphase]
  wired := by
    have hb := wiresAfter_board dc s.wires
    have hsel (a : Byte) : selectsPanel (runCall s call).wires a = selectsPanel s.wires a := by
      rw [selectsPanel, selectsPanel, hw, hb.par]
    have hwired := h.wired
    unfold State.wired at hwired ⊢
    rw [(runCall_frame s call).cfg, (runCall_frame s call).par, hsel]
    exact hwired
  answers := (answersOk_runCall h.answers).2

theorem State.panelListens.hears {s : State} (h : s.panelListens) : s.hears := h.2.1

/-- A latched operation whose panel listens. -/
theorem State.panelListens.attends {s : State} {calls : List TransportCall} (h : s.panelListens)
    (hok : s.answersOk (busLoad s.cfg calls)) (w : HopWord) : Attends (beginOp w calls s) calls := by
  obtain ⟨hinit, hears, hwired⟩ := h
  exact ⟨fun _ => hinit, hears, hwired, hok⟩

theorem settled_phase (c : Cfg) (p : Panel) : (settled c p).phase = p.phase := by
  obtain h | h := settled_cases c p <;> rw [h]

theorem settled_cpend (c : Cfg) (p : Panel) : (settled c p).cpend = p.cpend := by
  obtain h | h := settled_cases c p <;> rw [h]

/-- A transfer after another: an update of the panel between them that does not look at the frame handler finds it
dropped or not, and leaves it dropped in the end. -/
theorem settled_update {f : Panel → Panel} (hf : ∀ p x, f (p.setFh x) = (f p).setFh x) {c : Cfg} {p : Panel}
    (hk : (f p).standing.known = true) : settled c (f (settled c p)) = settled c (f p) := by
  cases hb : c.bus with
  | spi => simp only [settled, hb]
  | i2c =>
    obtain h | h := settled_cases c p
    · rw [h]
    · rw [h, show ({ p with fh := .dropped } : Panel) = p.setFh .dropped from rfl, hf]
      simp [settled, hb, Panel.setFh, hk]

/-- The calls `done` take the panel from its fields to `f` of them, the frame handler aside, and it takes the calls
`rest` after them. -/
structure Takes (s : State) (done rest : List TransportCall) (f : Panel → Panel) : Prop where
  rx : (runCalls done s).rx = withPanel s (settled s.cfg (f s.panel))
  attends : Attends (runCalls done s) rest

theorem Takes.panel {s : State} {done rest : List TransportCall} {f : Panel → Panel} (h : Takes s done rest f) :
    (runCalls done s).panel = settled s.cfg (f s.panel) := congrArg Rx.panel h.rx

theorem Takes.cpend {s : State} {done rest : List TransportCall} {f : Panel → Panel} (h : Takes s done rest f) :
    (runCalls done s).panel.cpend = (f s.panel).cpend := by rw [h.panel, settled_cpend]

theorem Takes.congr {s : State} {done rest : List TransportCall} {f g : Panel → Panel} (h : Takes s done rest f)
    (he : f s.panel = g s.panel) : Takes s done rest g := ⟨he ▸ h.rx, h.attends⟩

/-- Calls after calls, where those behind do not look at the frame handler between two transfers. -/
theorem Takes.append {s : State} {done done' rest : List TransportCall} {f g : Panel → Panel}
    (h : Takes s done (done' ++ rest) f) (h' : Takes (runCalls done s) done' rest g)
    (hg : ∀ p x, g (p.setFh x) = (g p).setFh x) (hk : (g (f s.panel)).standing.known = true) :
    Takes s (done ++ done') rest fun q => g (f q) := by
  have hrefused : (runCalls done s).refused = s.refused := congrArg Rx.refused h.rx
  have hdraws : (runCalls done s).draws = s.draws := congrArg Rx.draws h.rx
  refine ⟨?_, by rw [runCalls_append]; exact h'.attends⟩
  rw [runCalls_append, h'.rx, h.panel, (runCalls_frame done s).cfg, settled_update hg hk, withPanel, hrefused, hdraws]
  rfl

/-- A call whose transfer delivers what takes the panel to `f` of its fields. -/
theorem Attends.takes {s : State} {call : TransportCall} {calls : List TransportCall} {f : Panel → Panel}
    {dc : Level} {r : Rx} (h : Attends s (call :: calls))
    (hcall : (runCall s call).rx = settledRx s.cfg r ∧ (runCall s call).wires = wiresAfter dc s.wires)
    (hr : r = withPanel s (f s.panel)) (hk : (f s.panel).standing.known = true)
    (hphase : (f s.panel).phase = s.panel.phase) : Takes s [call] calls f := by
  obtain ⟨hrx, hw⟩ := hcall
  rw [hr, settledRx_withPanel] at hrx
  have hpanel : (runCall s call).panel = settled s.cfg (f s.panel) := congrArg Rx.panel hrx
  refine ⟨hrx, h.next hw ?_ ?_⟩
  · rwa [hpanel, settled_standing]
  · rwa [hpanel, settled_phase]

/-- A command call to a panel that listens and awaits no contrast value (rules R98, R241 to R247). -/
theorem Attends.cmd {s : State} {b : Byte} {calls : List TransportCall} (h : Attends s (.cmd b :: calls))
    (hp : s.panel.cpend = false) {cmd : PanelCmd} (hb : decodeCommand b = some cmd) :
    Takes s [.cmd b] calls fun q => q.heard.obey cmd :=
  h.takes (runCall_cmd s b h.supported h.hears h.wired (answersOk_runCall h.answers).1)
    (deliverCmd_decoded h.hears hp hb) (by cases cmd <;> rfl) (by cases cmd <;> rfl)

/-- A command call to a panel that listens and awaits a contrast value (rules R98, R242). -/
theorem Attends.awaited {s : State} {b : Byte} {calls : List TransportCall} (h : Attends s (.cmd b :: calls))
    (hp : s.panel.cpend = true) : Takes s [.cmd b] calls fun q => q.heard.setContrast b :=
  h.takes (runCall_cmd s b h.supported h.hears h.wired (answersOk_runCall h.answers).1)
    (deliverCmd_awaited h.hears hp b) rfl rfl

/-! ## Operations of one command -/

/-- An operation of one command: what it leaves in the block and in a panel that listens (rules R181 to R185). -/
theorem exec_one_cmd {i : Instr} {s : State} {c : Byte} {cmd : PanelCmd} {lc : Lifecycle} {p : Panel}
    (hi : isHostOp i = true) (hne : i ≠ .init) (hc : opCalls i s = [.cmd c]) (ha : s.accepts)
    (ho : operandLegal i s = true) (hok : s.answersOk (busLoad s.cfg [.cmd c])) (hcmd : decodeCommand c = some cmd)
    (hlife : completedLifecycle (begun i s) = lc) (hpanel : s.panel.heard.obey cmd = p) :
    ∃ t, exec i s = .next t ∧ completesAs (opWord i) [.cmd c] s t ∧ linesAfter .lo s t ∧
      t.lifecycle = lc ∧ t.initDone = s.initDone ∧
      (s.panelListens → s.panel.cpend = false → t.rx = withPanel s (settled s.cfg p)) := by
  have hexec := exec_one_call hi hne hc ha ho hok
  obtain ⟨-, -, -, hinit, -, -⟩ := instructionsKeepWhatTheyDoNotWrite _ _ _ hexec
  have hend : afterCall i (.cmd c) s = ended i s := by
    rw [ended, begun_of_ne_init hne, hc]
    rfl
  refine ⟨_, hexec, afterCall_completesAs i (.cmd c) s, afterCall_linesAfter i (.cmd c) s, ?_, hinit hne,
    fun hl hp => ?_⟩
  · rw [hend, ended_lifecycle hi hne, hlife]
  · rw [afterCall_cmd_rx i hl hok, deliverCmd_decoded hl.hears hp hcmd, settledRx_withPanel, hpanel]

/-- `LIFECYCLE` after RESET, POWERON and POWEROFF (rules R180 to R182). -/
theorem completedLifecycle_begun (s : State) :
    completedLifecycle (begun .reset s) = .reset ∧ completedLifecycle (begun .poweron s) = .poweredOn ∧
      completedLifecycle (begun .poweroff s) = .poweredOff := by
  refine ⟨?_, ?_, ?_⟩ <;> (rw [completedLifecycle, begun_curOp rfl]; rfl)

theorem completedLifecycle_sleep (v : Byte) (s : State) :
    completedLifecycle (begun (.sleep v) s) = if v = 0 then .poweredOn else .sleeping := by
  have hop : (curOp (begun (.sleep v) s)).toNat = 4 := by
    rw [begun_curOp (i := .sleep v) rfl]
    exact congrArg BitVec.toNat (opcOf_hopWord 0x04 v)
  have himm : immOf (begun (.sleep v) s).cur = v := immOf_hopWord 0x04 v
  simp only [completedLifecycle, hop, himm, immActive, bne_iff_ne, ite_not]

/-- Settles O20: each of the three sends one display command, and they differ in the byte and the completion. -/
theorem displaySwitchesOnAndOff : Obligations.DisplaySwitchesOnAndOff := by
  unfold Obligations.DisplaySwitchesOnAndOff
  intro s ha hok
  obtain ⟨-, hon, hoff⟩ := completedLifecycle_begun s
  refine ⟨exec_one_cmd (i := .poweron) (cmd := .disp 1) rfl nofun rfl ha rfl hok rfl hon rfl,
    exec_one_cmd (i := .poweroff) (cmd := .disp 0) rfl nofun rfl ha rfl hok rfl hoff rfl, fun v => ?_⟩
  refine exec_one_cmd (i := .sleep v) (cmd := .disp (if v = 0 then 1 else 0)) rfl nofun rfl ha rfl hok
    (by split <;> rfl) (completedLifecycle_sleep v s) ?_
  by_cases hv : v = 0
  · rw [if_pos hv, hv]
    rfl
  · rw [if_neg hv, beq_false_of_ne hv]
    rfl

/-- The command byte of INVERT (rules R96, R185). -/
theorem decodeCommand_invert {flag : Byte} (h : flag = 0 ∨ flag = 1) :
    0xA6 ||| flag = 0xA6 + flag ∧ decodeCommand (0xA6 + flag) = some (.normInv (flag.extractLsb' 0 1)) ∧
      (flag.extractLsb' 0 1).getLsbD 0 = (flag == 1) := by
  obtain rfl | rfl := h <;> decide

theorem operandLegal_invert (flag : Byte) (s : State) :
    operandLegal (.invert flag) s = true ↔ flag = 0 ∨ flag = 1 := operandLegal_fill flag s

/-- Settles O22: one display-mode command; an immediate other than 0 and 1 is no legal operand. -/
theorem invertSetsTheDisplayMode : Obligations.InvertSetsTheDisplayMode := by
  unfold Obligations.InvertSetsTheDisplayMode
  refine fun s flag ha => ⟨fun hflag hok => ?_, fun h0 h1 =>
    exec_illegal rfl ha fun ho => ((operandLegal_invert flag s).1 ho).elim h0 h1⟩
  obtain ⟨hbyte, hcmd, hbit⟩ := decodeCommand_invert hflag
  have hcalls : opCalls (.invert flag) s = [.cmd (0xA6 + flag)] := by rw [opCalls, hbyte]
  have hlife : completedLifecycle (begun (.invert flag) s) = s.lifecycle :=
    completedLifecycle_other _ (by rw [begun_curOp (i := .invert flag) rfl]; simp [opcodeOf, encode, lifecycleOps])
  refine exec_one_cmd rfl nofun hcalls ha ((operandLegal_invert flag s).2 hflag) hok hcmd hlife ?_
  rw [← hbit]
  rfl

/-! ## CONTRAST -/

/-- The two commands of CONTRAST to a panel that listens: the first is awaited no more after the second. -/
theorem Attends.contrast {s : State} {level : Byte} (h : Attends s [.cmd 0x81, .cmd level])
    (hp : s.panel.cpend = false) :
    Takes s [.cmd 0x81, .cmd level] [] fun q => { q with contrast := level, standing := .ordinary } := by
  have hfirst := h.cmd (cmd := .contrastFirst) hp rfl
  have hboth := Takes.append (rest := []) hfirst (hfirst.attends.awaited hfirst.cpend) (fun _ _ => rfl) rfl
  refine hboth.congr ?_
  simp [Panel.setContrast, Panel.obey, Panel.awaitContrast, Panel.heard, hp]

/-- Settles O21: the first command makes the panel await the level, and the second brings it. -/
theorem contrastSendsTwoCommands : Obligations.ContrastSendsTwoCommands := by
  unfold Obligations.ContrastSendsTwoCommands
  intro s level ha hok
  have hexec := exec_ended (i := .contrast level) rfl ha rfl hok
  obtain ⟨-, -, -, hinit, hlife, -⟩ := instructionsKeepWhatTheyDoNotWrite _ _ _ hexec
  have hwires := runCalls_wires (calls := [.cmd 0x81]) (last := .cmd level)
    (fun call hc => ⟨.lo, List.mem_singleton.1 hc ▸ .cmd _⟩) (.cmd level) (begun (.contrast level) s)
  have hends := ended_completesAs (i := .contrast level) (s := s) nofun
    (opCalls_noFb (i := .contrast level) nofun (fun _ => nofun) (fun _ => nofun) nofun s)
  refine ⟨_, hexec, hends, linesAfter_of .lo s _ hwires, hlife nofun nofun nofun nofun nofun, hinit nofun,
    fun hl hp => ?_⟩
  exact ((hl.attends hok (opWord (.contrast level))).contrast hp).rx

end Sys2Proof.Machine

/-! RESET: the pulse on the reset line, and what it makes of the panel (rules R180, R249). -/

namespace Sys2Proof.Machine

/-! ## The reset calls -/

/-- Neither rule R191 nor R303 undefines the panel: the operation is none of R191's, and there is a reset line. -/
theorem unsupported_resetLine {s : State} (hop : isDeviceOp (curOp s) = false) (hres : s.cfg.hasRes = true) :
    unsupported s = false := by simp [unsupported, hop, hres]

/-- A bus action that cannot fail, with what the panel makes of it. -/
theorem succeed_rx_of_infallible {a : BusAction} (h : a.fallible = false) (s : State) :
    (succeed s a).rx = panelRx a (blockDrives a (emit a s)) := by
  rw [succeed, h]
  rfl

theorem runCall_res_rx {s : State} (hop : isDeviceOp (curOp s) = false) (hres : s.cfg.hasRes = true) (lv : Bool) :
    (runCall s (.res lv)).rx = onResPin (blockWires (.pin .res lv) s.wires) lv s.rx := by
  have hu : unsupported (blockDrives (.pin .res lv) (emit (.pin .res lv) s)) = false := unsupported_resetLine hop hres
  refine (succeed_rx_of_infallible rfl s).trans ?_
  rw [panelRx, hu]
  rfl

theorem runCall_wait_rx {s : State} (hop : isDeviceOp (curOp s) = false) (hres : s.cfg.hasRes = true) (ms : Nat) :
    (runCall s (.wait ms)).rx = onWait s.wires ms s.rx := by
  have hu : unsupported (emit (.wait ms) s) = false := unsupported_resetLine hop hres
  refine (succeed_rx_of_infallible rfl s).trans ?_
  rw [panelRx, blockDrives, hu]
  rfl

theorem runCall_res_wires (s : State) (lv : Bool) : (runCall s (.res lv)).wires = blockWires (.pin .res lv) s.wires :=
  succeed_wires _ s

theorem runCall_wait_wires (s : State) (ms : Nat) : (runCall s (.wait ms)).wires = s.wires := succeed_wires _ s

/-- The level of the RES line after the reset calls (rules R33, R180). -/
def resAfterReset (c : Cfg) (lv : Level) : Level := if c.hasRes then .hi else lv

/-- The lines after the reset calls: RES is high, if there is one (rule R180). -/
theorem runCalls_reset_wires (s : State) :
    (runCalls (resetCalls s.cfg) s).wires = { s.wires with lineRes := resAfterReset s.cfg s.lineRes } := by
  unfold resetCalls resAfterReset
  split
  · simp only [runCalls, List.foldl_cons, List.foldl_nil, runCall_res_wires, runCall_wait_wires]
    rfl
  · rfl

/-! ## The pulse -/

/-- A line driven low begins a reset, unless one is under way (rule R249). -/
theorem onResPin_low {r : Rx} (h : r.panel.phase ≠ .low ∧ r.panel.phase ≠ .held) (w : Wires) :
    onResPin w false r = r.onPanel (Panel.setPhase .low) := by
  obtain ⟨hlow, hheld⟩ := h
  unfold onResPin
  cases hp : r.panel.phase with
  | idle | risen | risenEarly => rfl
  | low => exact absurd hp hlow
  | held => exact absurd hp hheld

/-- A line driven high is in no low phase, and a panel that is still modelled stays so (rule R249). -/
theorem onResPin_high (w : Wires) (r : Rx) :
    ((onResPin w true r).panel.phase ≠ .low ∧ (onResPin w true r).panel.phase ≠ .held) ∧
      (onResPin w true r).refused = r.refused ∧
      (r.panel.standing ≠ .abandoned → (onResPin w true r).panel.standing ≠ .abandoned) := by
  unfold onResPin
  cases hp : r.panel.phase with
  | idle | risen | risenEarly => simp [hp]
  | held => exact ⟨⟨nofun, nofun⟩, rfl, id⟩
  | low =>
    refine ⟨⟨nofun, nofun⟩, rfl, fun h => ?_⟩
    change r.panel.standing.lost ≠ .abandoned
    cases hs : r.panel.standing with
    | abandoned => exact absurd hs h
    | inReset | ordinary | undefined => nofun

/-- From a line that is not low: driven low, held for 20 ms, driven high, and 20 ms more (rule R249). -/
theorem onWait_onResPin_pulse {r : Rx} (h : r.panel.phase ≠ .low ∧ r.panel.phase ≠ .held)
    (w w' w'' w''' : Wires) :
    onWait w''' 20 (onResPin w'' true (onWait w' 20 (onResPin w false r))) =
      (r.onPanel (Panel.setPhase .risen)).panelReset w''' := by
  rw [onResPin_low h]
  rfl

theorem onWait_short (w : Wires) {ms : Nat} (h : ms < 20) (r : Rx) : onWait w ms r = r :=
  if_neg (by simpa [resetWait])

/-- The reset calls put a panel that is still modelled in `PANEL_RESET`, whatever the line was at (rules R180,
R249). -/
theorem runCalls_reset_panel {s : State} (hop : isDeviceOp (curOp s) = false) (hres : s.cfg.hasRes = true) :
    (runCalls (resetCalls s.cfg) s).refused = s.refused ∧
      (s.panel.standing ≠ .abandoned → inPanelReset s.par (runCalls (resetCalls s.cfg) s).panel) := by
  have hrx : (runCalls (resetCalls s.cfg) s).rx =
      ((onResPin (blockWires (.pin .res true) s.wires) true s.rx).onPanel (Panel.setPhase .risen)).panelReset
        (blockWires (.pin .res true) s.wires) := by
    rw [resetCalls, if_pos hres]
    simp (disch := simp [runCall_curOp, (runCall_frame _ _).cfg, hop, hres]) only [runCalls, List.foldl_cons,
      List.foldl_nil, runCall_wait_rx, runCall_res_rx, runCall_res_wires, runCall_wait_wires]
    rw [onWait_short (ms := 1) _ (by omega), onWait_onResPin_pulse (onResPin_high _ _).1]
    rfl
  obtain ⟨-, hrefused, hstanding⟩ := onResPin_high (blockWires (.pin .res true) s.wires) s.rx
  obtain ⟨hrefused', hreset, -⟩ := panelReset_spec (blockWires (.pin .res true) s.wires)
    ((onResPin (blockWires (.pin .res true) s.wires) true s.rx).onPanel (Panel.setPhase .risen))
  rw [← hrx] at hrefused' hreset
  exact ⟨hrefused'.trans hrefused, fun h => hreset (hstanding h)⟩

theorem resetCalls_load (c : Cfg) : busLoad c (resetCalls c) = 0 := by
  unfold resetCalls
  split <;> rfl

/-- Settles O23: the reset calls take no answer; with a line they are the pulse, without one there is none of them. -/
theorem resetPulsesTheLine : Obligations.ResetPulsesTheLine := by
  unfold Obligations.ResetPulsesTheLine
  refine ⟨rfl, fun imm himm => ?_, fun s ha => ?_⟩
  · simp only [decodeHop, opcOf_hopWord, immOf_hopWord]
    exact if_neg himm
  · have hexec : exec .reset s = .next (ended .reset s) :=
      exec_ended rfl ha rfl (by rw [opCalls, resetCalls_load]; rfl)
    have hends := ended_completesAs (i := .reset) (s := s) nofun fun _ => resetCalls_noFb
    have hlife : (ended .reset s).lifecycle = .reset :=
      (ended_lifecycle (i := .reset) rfl nofun s).trans (completedLifecycle_begun s).1
    obtain ⟨-, -, -, hinit, -⟩ := instructionsKeepWhatTheyDoNotWrite _ _ _ hexec
    have hwires := runCalls_reset_wires (begun .reset s)
    refine ⟨fun hres => ?_, fun hres => ?_⟩
    · have hcalls : opCalls .reset s = [.res true, .wait 1, .res false, .wait 20, .res true, .wait 20] := if_pos hres
      rw [hcalls] at hends
      obtain ⟨hrefused, hpanel⟩ := runCalls_reset_panel (s := begun .reset s)
        (by rw [begun_curOp rfl]; rfl) hres
      refine ⟨_, hexec, hends, hends.trace, hlife, hinit nofun, (congrArg Wires.lineRes hwires).trans (if_pos hres),
        congrArg Wires.lineDc hwires, congrArg Wires.lineCs hwires, congrArg Wires.spiMode hwires, hrefused, hpanel⟩
    · have hcalls : opCalls .reset s = [] := if_neg (by simp [hres])
      have hend : ended .reset s = complete (begun .reset s) := by rw [ended, hcalls]; rfl
      rw [hcalls] at hends
      refine ⟨_, hexec, hends, ?_, hlife, hinit nofun, ?_, ?_⟩ <;> rw [hend] <;> rfl

end Sys2Proof.Machine

/-! SHOW: the page sequences on the wire, and the display memory that they leave in a panel that listens (rules R63,
R186 to R189, R240, R245 to R247). -/

namespace Sys2Proof.Machine

/-! ## The page sequences -/

/-- A configuration that passes the checks has 1 to 16 pages (rule R300). -/
theorem pages_of_constructed {c : Cfg} (h : constructionCause c = none) : 0 < c.PAGES ∧ c.PAGES ≤ 16 := by
  have hH := height_eq h
  unfold constructionCause at h
  split at h
  · cases h
  · split at h
    · cases h
    · split at h
      · cases h
      · unfold Cfg.H at hH
        omega

/-- The page command (rules R95, R96). -/
theorem pageCmd_eq {p : Nat} (h : p < 16) :
    pageCmd p = 0xB0 + BitVec.ofNat 8 p ∧ pageCmd p = pageByte (BitVec.ofNat 4 p) := by
  revert p
  decide

/-- The calls of the first `n` pages (rule R187). -/
def pagesCalls (n : Nat) : List TransportCall := (List.range n).flatMap pageCalls

theorem pagesCalls_succ (n : Nat) : pagesCalls (n + 1) = pagesCalls n ++ pageCalls n := by
  simp [pagesCalls, List.range_succ]

/-- The page sequences with their command bytes written out (rules R96, R186). -/
theorem showCalls_eq {c : Cfg} (h : constructionCause c = none) :
    showCalls c = (List.range c.PAGES).flatMap fun p =>
      [.cmd (0xB0 + BitVec.ofNat 8 p), .cmd 0x02, .cmd 0x10, .dataFb p] := by
  obtain ⟨-, hmax⟩ := pages_of_constructed h
  refine List.flatMap_congr fun p hp => ?_
  have hlt : p < 16 := by
    have := List.mem_range.1 hp
    omega
  rw [pageCalls, (pageCmd_eq hlt).1]
  rfl

theorem length_pagesCalls (n : Nat) : (pagesCalls n).length = 4 * n := by
  simp [pagesCalls, pageCalls, Nat.mul_comm]

theorem sendsAt_pagesCalls {n : Nat} {call : TransportCall} (h : call ∈ pagesCalls n) :
    ∃ dc, SendsAt call dc := by
  obtain ⟨p, -, h⟩ := List.mem_flatMap.1 h
  simp only [pageCalls, List.mem_cons, List.not_mem_nil, or_false] at h
  rcases h with rfl | rfl | rfl | rfl
  · exact ⟨_, .cmd _⟩
  · exact ⟨_, .cmd _⟩
  · exact ⟨_, .cmd _⟩
  · exact ⟨_, .dataFb p⟩

/-- The page sequences end with a data call (rule R186). -/
theorem showCalls_ends {c : Cfg} (h : constructionCause c = none) :
    ∃ calls p, (∀ call ∈ calls, ∃ dc, SendsAt call dc) ∧ showCalls c = calls ++ [.dataFb p] := by
  obtain ⟨n, hn⟩ : ∃ n, c.PAGES = n + 1 := ⟨c.PAGES - 1, by have := (pages_of_constructed h).1; omega⟩
  have hshow : showCalls c = pagesCalls n ++ pageCalls n := by rw [← pagesCalls_succ, ← hn]; rfl
  refine ⟨pagesCalls n ++ [.cmd (pageCmd n), .cmd lowColCmd, .cmd highColCmd], n, fun call hc => ?_, ?_⟩
  · refine sendsAt_pagesCalls (n := n + 1) ?_
    rw [pagesCalls_succ]
    simp only [pageCalls, List.mem_append, List.mem_cons, List.not_mem_nil, or_false] at hc ⊢
    tauto
  · rw [hshow, List.append_assoc]
    rfl

/-- After the page sequences D/C is high, and CS if there is one (rules R153, R155). -/
theorem runCalls_showCalls_wires {c : Cfg} (h : constructionCause c = none) (s : State) :
    (runCalls (showCalls c) s).wires = wiresAfter .hi s.wires := by
  obtain ⟨calls, p, hsends, he⟩ := showCalls_ends h
  rw [he]
  exact runCalls_wires hsends (.dataFb p) s

/-- Settles O24: the calls of SHOW are the page sequences, and the last of them sends data. -/
theorem showSendsEveryPage : Obligations.ShowSendsEveryPage := by
  unfold Obligations.ShowSendsEveryPage
  intro s ha hc hok
  have hexec := exec_ended (i := .showPages) rfl ha rfl hok
  obtain ⟨-, -, -, hinit, hlife, -⟩ := instructionsKeepWhatTheyDoNotWrite _ _ _ hexec
  have hends := ended_completesAs (i := .showPages) (s := s) nofun fun _ => showCalls_noFb
  have htpc : (ended .showPages s).tpc = 4 * s.cfg.PAGES := by
    obtain ⟨⟨-, -, -, htpc, -⟩, -⟩ := hends
    exact htpc.trans (length_pagesCalls _)
  rw [opCalls, showCalls_eq hc] at hends
  exact ⟨_, hexec, hends, htpc, linesAfter_of .hi s _ (runCalls_showCalls_wires hc _),
    hlife nofun nofun nofun nofun nofun, hinit nofun⟩

/-! ## What the panel makes of a page -/

/-- The panel after the sequence of page `p` with the bytes `l`: they are stored in the page from column 2 on (rules
R186, R240, R245 to R247). -/
def Panel.takePage (p : Nat) (l : List Byte) (q : Panel) : Panel :=
  Panel.storeRow l { q with page := BitVec.ofNat 4 p, col := 2, standing := .ordinary }

theorem takePage_known (p : Nat) (l : List Byte) (q : Panel) : (q.takePage p l).standing.known = true := by
  simp [Panel.takePage, Panel.storeRow, Standing.known]

/-- The three commands of a page sequence set the page and column 2 (rules R245 to R247). -/
theorem obey_pageCommands (n : BitVec 4) (q : Panel) :
    (((q.heard.obey (.page n)).heard.obey (.lowCol 2)).heard).obey (.highCol 0) =
      { q with page := n, col := 2, standing := .ordinary } := by
  have hcol : (0#4 ++ (q.col.extractLsb' 4 4 ++ 2#4).extractLsb' 0 4 : BitVec 8) = 2 := by
    rw [BitVec.extractLsb'_append_eq_right]
    rfl
  rw [← hcol]
  rfl

@[simp] theorem length_pageBytes (s : State) (p : Nat) : (pageBytes s p).length = s.cfg.W := by
  simp [pageBytes, memRead]

theorem pageBytes_congr {s t : State} (hc : t.cfg = s.cfg) (hf : t.fb = s.fb) (p : Nat) :
    pageBytes t p = pageBytes s p := by
  simp [pageBytes, memRead, fbByte, hc, hf]

/-- A page of the framebuffer, sent to a panel that listens and has room for it (rules R153, R186, R240). -/
theorem Attends.dataFb {s : State} {p : Nat} {calls : List TransportCall} (h : Attends s (.dataFb p :: calls))
    (hroom : HasRoom s.wires s.rx s.cfg.W) : Takes s [.dataFb p] calls (Panel.storeRow (pageBytes s p)) := by
  refine h.takes (runCall_dataFb s p h.supported h.hears h.wired (answersOk_runCall h.answers).1)
    (deliverAll_stores (by rwa [length_pageBytes])) ?_ rfl
  simp only [Panel.storeRow]
  split
  · exact h.hears.1
  · rfl

/-- The three commands of a page sequence to a panel that listens. -/
theorem Attends.pageCommands {s : State} {p : Nat} {calls : List TransportCall}
    (h : Attends s (.cmd (pageCmd p) :: .cmd lowColCmd :: .cmd highColCmd :: calls)) (hp : s.panel.cpend = false)
    (hlt : p < 16) : Takes s [.cmd (pageCmd p), .cmd lowColCmd, .cmd highColCmd] calls fun q =>
      { q with page := BitVec.ofNat 4 p, col := 2, standing := .ordinary } := by
  have hdecode : decodeCommand (pageCmd p) = some (.page (BitVec.ofNat 4 p)) := by
    rw [(pageCmd_eq hlt).2, decodeCommand_pageByte]
  have hpage := h.cmd hp hdecode
  have hlow := hpage.attends.cmd (cmd := .lowCol 2) (hpage.cpend.trans hp) rfl
  have hpair := Takes.append (rest := .cmd highColCmd :: calls) hpage hlow (fun _ _ => rfl) rfl
  have hhigh := hpair.attends.cmd (cmd := .highCol 0) (hpair.cpend.trans hp) rfl
  have hall := Takes.append (rest := calls) hpair hhigh (fun _ _ => rfl) rfl
  exact hall.congr (obey_pageCommands _ s.panel)

/-- The image fits the panel after transport calls if it did before. -/
theorem fits_runCalls {s : State} (h : s.fits) (calls : List TransportCall) : (runCalls calls s).fits := by
  have hfr := runCalls_frame calls s
  unfold State.fits
  rwa [hfr.cfg, hfr.par]

theorem settled_page (c : Cfg) (p : Panel) : (settled c p).page = p.page := by
  obtain h | h := settled_cases c p <;> rw [h]

theorem settled_col (c : Cfg) (p : Panel) : (settled c p).col = p.col := by
  obtain h | h := settled_cases c p <;> rw [h]

/-- There is room for a page that is part of an image that fits (rules R189, R240). -/
theorem pages_room {s : State} {p : Nat} (hf : s.fits) (hh : s.hears) (hp : s.panel.cpend = false)
    (hlt : p < s.cfg.PAGES) (h16 : p < 16) (hpage : s.panel.page = BitVec.ofNat 4 p) (hcol : s.panel.col = 2) :
    HasRoom s.wires s.rx s.cfg.W := by
  obtain ⟨hcols, hpages, hbits⟩ := hf
  have hpage' : s.panel.page.toNat = p := by
    rw [hpage]
    exact Nat.mod_eq_of_lt h16
  have hcol' : s.panel.col.toNat = 2 := by rw [hcol]; rfl
  refine ⟨hh.1, hh.2, hp, ?_, ?_, ?_⟩ <;> simp only [rx_panel, hpage', hcol', State.wires] <;> omega

/-- A page sequence to a panel that listens and has room for the page (rules R186, R189). -/
theorem Attends.page {s : State} {p : Nat} {calls : List TransportCall} (h : Attends s (pageCalls p ++ calls))
    (hp : s.panel.cpend = false) (hf : s.fits) (hlt : p < s.cfg.PAGES) (h16 : p < 16) :
    Takes s (pageCalls p) calls (Panel.takePage p (pageBytes s p)) := by
  have hcmds := Attends.pageCommands (calls := .dataFb p :: calls) h hp h16
  have hfr := runCalls_frame [.cmd (pageCmd p), .cmd lowColCmd, .cmd highColCmd] s
  have hfb := (runCalls_fb [.cmd (pageCmd p), .cmd lowColCmd, .cmd highColCmd] s (by simp [noFb])).1
  have hroom := pages_room (fits_runCalls hf _) hcmds.attends.hears (hcmds.cpend.trans hp) (by rwa [hfr.cfg]) h16
    (by rw [hcmds.panel, settled_page]) (by rw [hcmds.panel, settled_col])
  have hdata := hcmds.attends.dataFb hroom
  rw [pageBytes_congr hfr.cfg hfb] at hdata
  have hall := Takes.append (rest := calls) hcmds hdata (fun _ _ => rfl)
    (by exact takePage_known p (pageBytes s p) s.panel)
  exact hall

/-! ## What the panel makes of the image -/

/-- The panel after the sequences of the first `n` pages, of the given bytes. -/
def Panel.takePages (bytes : Nat → List Byte) : Nat → Panel → Panel
  | 0, q => q
  | n + 1, q => Panel.takePage n (bytes n) (Panel.takePages bytes n q)

/-- Only the display memory, the page, the column and the standing change. -/
theorem takePages_fields (bytes : Nat → List Byte) (n : Nat) (q : Panel) :
    Panel.takePages bytes (n + 1) q =
      { q with
        pram := (Panel.takePages bytes (n + 1) q).pram
        page := BitVec.ofNat 4 n
        col := 2 + BitVec.ofNat 8 (bytes n).length
        standing := .ordinary } := by
  induction n with
  | zero => simp [Panel.takePages, Panel.takePage, Panel.storeRow]
  | succ n ih =>
    rw [Panel.takePages, ih]
    simp [Panel.takePage, Panel.storeRow]

/-- The display memory after the first `n` pages: their bytes from column 2 on (rules R189, R240). -/
theorem pramByte_takePages (bytes : Nat → List Byte) {n : Nat} (hn : n ≤ 16) (q : Panel) (pg col : Nat) :
    pramByte (Panel.takePages bytes n q) pg col =
      if pg < n ∧ 2 ≤ col then (bytes pg).getD (col - 2) (pramByte q pg col) else pramByte q pg col := by
  induction n with
  | zero => simp [Panel.takePages]
  | succ n ih =>
    have hpage : (BitVec.ofNat 4 n).toNat = n := Nat.mod_eq_of_lt (by omega)
    rw [Panel.takePages, Panel.takePage, pramByte_storeRow]
    change (if pg = (BitVec.ofNat 4 n).toNat ∧ 2 ≤ col then
      (bytes n).getD (col - 2) (pramByte (Panel.takePages bytes n q) pg col)
      else pramByte (Panel.takePages bytes n q) pg col) = _
    rw [ih (by omega), hpage]
    by_cases hpg : pg = n
    · subst hpg
      simp
    · have hlt : pg < n + 1 ↔ pg < n := by omega
      simp only [hpg, false_and, if_false, hlt]

/-- The sequences of the first pages to a panel that listens and has room for the image (rules R187, R189). -/
theorem Attends.pages {s : State} {n : Nat} {rest : List TransportCall} (h : Attends s (pagesCalls (n + 1) ++ rest))
    (hp : s.panel.cpend = false) (hf : s.fits) (hlt : n < s.cfg.PAGES) (h16 : n < 16) :
    Takes s (pagesCalls (n + 1)) rest (Panel.takePages (pageBytes s) (n + 1)) := by
  induction n generalizing rest with
  | zero => exact h.page hp hf hlt h16
  | succ n ih =>
    rw [pagesCalls_succ, List.append_assoc] at h
    have hbefore := ih h (by omega) (by omega)
    have hcpend : (runCalls (pagesCalls (n + 1)) s).panel.cpend = false := by
      rw [hbefore.cpend, takePages_fields]
      exact hp
    have hfr := runCalls_frame (pagesCalls (n + 1)) s
    have hfb := (runCalls_fb (pagesCalls (n + 1)) s fun call hc => by
      obtain ⟨_, hsend⟩ := sendsAt_pagesCalls hc
      exact hsend.noFb).1
    have hpage := hbefore.attends.page hcpend (fits_runCalls hf _) (by rwa [hfr.cfg]) h16
    rw [pageBytes_congr hfr.cfg hfb] at hpage
    rw [pagesCalls_succ]
    have hall := Takes.append (rest := rest) hbefore hpage (fun _ _ => rfl) (takePage_known ..)
    exact hall

theorem pramByte_settled (c : Cfg) (p : Panel) (pg col : Nat) :
    pramByte (settled c p) pg col = pramByte p pg col := by
  simp [pramByte]

/-- A byte of a page, as it is sent (rules R60, R71). -/
theorem pageBytes_getD (s : State) (p : Nat) {x : Nat} (hx : x < s.cfg.W) (d : Byte) :
    (pageBytes s p).getD x d = fbByte s (p * s.cfg.W + x) := by
  simp [pageBytes, memRead, fbIndex, hx]

/-- The display memory after all pages: the framebuffer inside the image, what it held outside (rule R189). -/
theorem pramByte_shown (s : State) (h16 : s.cfg.PAGES ≤ 16) (q : Panel) :
    (∀ p, p < s.cfg.PAGES → pageShown s (Panel.takePages (pageBytes s) s.cfg.PAGES q) p) ∧
      ∀ pg col, ¬(pg < s.cfg.PAGES ∧ 2 ≤ col ∧ col < s.cfg.W + 2) →
        pramByte (Panel.takePages (pageBytes s) s.cfg.PAGES q) pg col = pramByte q pg col := by
  refine ⟨fun p hlt x hx => ?_, fun pg col hout => ?_⟩ <;> rw [pramByte_takePages _ h16]
  · rw [if_pos (by omega), Nat.add_sub_cancel, pageBytes_getD s p hx]
  · split
    · rw [List.getD_eq_default _ _ (by rw [length_pageBytes]; omega)]
    · rfl

/-- Settles O25: the panel takes the page sequences one after the other, and has room for each. -/
theorem showFillsThePanelMemory : Obligations.ShowFillsThePanelMemory := by
  unfold Obligations.ShowFillsThePanelMemory
  intro s ha hc hl hp hf hok
  obtain ⟨hpos, h16⟩ := pages_of_constructed hc
  obtain ⟨n, hn⟩ : ∃ n, s.cfg.PAGES = n + 1 := ⟨s.cfg.PAGES - 1, by omega⟩
  have hattends : Attends (begun .showPages s) (pagesCalls (n + 1) ++ []) := by
    rw [List.append_nil, ← hn]
    exact hl.attends hok _
  have htakes := hattends.pages hp hf (show n < s.cfg.PAGES by omega) (by omega)
  have hpages : (begun .showPages s).cfg.PAGES = n + 1 := hn
  rw [← hpages] at htakes
  have hrx : (ended .showPages s).rx =
      withPanel s (settled s.cfg (Panel.takePages (pageBytes s) s.cfg.PAGES s.panel)) := htakes.rx
  have hpanel : (ended .showPages s).panel = settled s.cfg (Panel.takePages (pageBytes s) s.cfg.PAGES s.panel) :=
    congrArg Rx.panel hrx
  obtain ⟨hshown, houtside⟩ := pramByte_shown s h16 s.panel
  refine ⟨_, exec_ended (i := .showPages) rfl ha rfl hok, ended_kind .., ?_, fun p hlt x hx => ?_,
    fun pg col hout => ?_⟩
  · rw [hrx, hpanel, settled_pram, hn, takePages_fields, length_pageBytes, Nat.add_sub_cancel, Nat.add_comm s.cfg.W,
      BitVec.ofNat_add]
    rfl
  · rw [hpanel, pramByte_settled]
    exact hshown p hlt x hx
  · rw [hpanel, pramByte_settled]
    exact houtside pg col hout

end Sys2Proof.Machine

/-! What transport calls send, and INIT, whose calls fill the framebuffer before they send it (rules R122, R143, R190,
R304). -/

namespace Sys2Proof.Machine

/-! ## What transport calls have sent -/

theorem Follows.callDone {acts : List BusAction} {s t : State} (h : Follows acts s t) : Follows acts s (callDone t) :=
  ⟨h.trace, h.res, h.dc, h.cs⟩

theorem succeedAll_follows (acts : List BusAction) (s : State) : Follows acts s (succeedAll acts s) := by
  induction acts generalizing s with
  | nil => exact .of_eq rfl rfl rfl rfl
  | cons a acts ih => exact (succeed_follows a s).trans (ih _)

/-- From `s` to `t` the calls have sent what they send in the state `v`, whose framebuffer `t` has; `HRES` is as it
was. -/
structure Sent (v : State) (calls : List TransportCall) (s t : State) : Prop where
  follows : Follows (wireOf v calls) s t
  fb : t.fb = v.fb
  hres : t.hres = s.hres

theorem Sent.append {v : State} {calls calls' : List TransportCall} {s t u : State} (h : Sent v calls s t)
    (h' : Sent v calls' t u) : Sent v (calls ++ calls') s u where
  follows := by
    rw [wireOf, List.flatMap_append]
    exact h.follows.trans h'.follows
  fb := h'.fb
  hres := h'.hres.trans h.hres

/-- What calls send depends on the configuration and the framebuffer only. -/
theorem Sent.congr {v v' : State} {calls : List TransportCall} {s t : State} (h : Sent v calls s t)
    (hc : v'.cfg = v.cfg) (hf : v'.fb = v.fb) : Sent v' calls s t :=
  ⟨by rw [wireOf_congr hc hf]; exact h.follows, h.fb.trans hf.symm, h.hres⟩

/-- The start of an operation sends nothing. -/
theorem Sent.of_begun {v : State} {calls : List TransportCall} {i : Instr} {s t : State}
    (h : Sent v calls (begun i s) t) : Sent v calls s t :=
  ⟨(begun_follows i s).trans h.follows, h.fb, h.hres.trans (begun_hres i s)⟩

/-- Calls without FB access send what they send in the state they begin in. -/
theorem sent_of_noFb {s : State} {calls : List TransportCall} (h : ∀ call ∈ calls, noFb call = true) :
    Sent s calls s (runCalls calls s) := by
  induction calls generalizing s with
  | nil => exact ⟨.of_eq rfl rfl rfl rfl, rfl, rfl⟩
  | cons call calls ih =>
    obtain ⟨hcall, hrest⟩ := List.forall_mem_cons.1 h
    obtain ⟨hfb, hhres⟩ := runCall_fb s call hcall
    have hfirst : Sent s [call] s (runCall s call) := by
      refine ⟨?_, hfb, hhres⟩
      rw [wireOf, List.flatMap_singleton, runCall, internalEffect_noFb hcall]
      exact (succeedAll_follows _ s).callDone
    exact hfirst.append ((ih hrest).congr (runCall_frame s call).cfg.symm hfb.symm)

/-! ## The calls of INIT -/

/-- INIT's calls up to the filling of the framebuffer (rule R190). -/
def initFront (c : Cfg) : List TransportCall := resetCalls c ++ [TransportCall.fillFb false]

theorem length_resetCalls (c : Cfg) : (resetCalls c).length = resetLength c := by
  unfold resetCalls resetLength
  split <;> rfl

theorem length_initFront (c : Cfg) : (initFront c).length = resetLength c + 1 := by
  rw [initFront, List.length_append, length_resetCalls]
  rfl

/-- INIT's calls: those up to the filling of the framebuffer, and those that send to the panel (rule R190). -/
theorem initCalls_eq (c : Cfg) :
    initCalls c = initFront c ++ .cmd (dispCmd true) :: showCalls c := by
  simp [initCalls, initFront]

/-- The reset calls send the same whatever the framebuffer holds. -/
theorem wireOf_resetCalls (v s : State) (c : Cfg) : wireOf v (resetCalls c) = wireOf s (resetCalls c) := by
  unfold resetCalls
  split <;> rfl

/-- The first calls of INIT fill the framebuffer, and send nothing of it. -/
theorem sent_initFront (s : State) :
    Sent (fillAll s false) (initFront s.cfg) s (runCalls (initFront s.cfg) s) := by
  have hreset : Sent s (resetCalls s.cfg) s (runCalls (resetCalls s.cfg) s) := sent_of_noFb fun _ => resetCalls_noFb
  have hcfg := (runCalls_frame (resetCalls s.cfg) s).cfg
  rw [initFront, runCalls_append]
  refine ⟨?_, ?_, hreset.hres⟩
  · rw [wireOf, List.flatMap_append, ← wireOf, wireOf_resetCalls _ s]
    exact hreset.follows.trans (.of_eq rfl rfl rfl rfl)
  · change (fillAll (runCalls (resetCalls s.cfg) s) false).fb = _
    rw [fillAll_fb, fillAll_fb, hcfg]

/-- INIT's calls, or a part of them that reaches behind the filling, send from the filled framebuffer. -/
theorem sent_init {s : State} {rest : List TransportCall} (h : ∀ call ∈ rest, noFb call = true) :
    Sent (fillAll s false) (initFront s.cfg ++ rest) s (runCalls (initFront s.cfg ++ rest) s) := by
  have hfront := sent_initFront s
  have hcfg := (runCalls_frame (initFront s.cfg) s).cfg
  rw [runCalls_append]
  exact hfront.append ((sent_of_noFb h).congr hcfg.symm hfront.fb.symm)

theorem initSends_noFb {c : Cfg} {call : TransportCall} (h : call ∈ TransportCall.cmd (dispCmd true) :: showCalls c) :
    noFb call = true := by
  obtain rfl | h := List.mem_cons.1 h
  · rfl
  · exact showCalls_noFb h

/-- The lines after INIT: RES from its pulse, the others from the last page (rules R150, R155, R180). -/
theorem runCalls_initCalls_wires {s : State} (h : constructionCause s.cfg = none) :
    (runCalls (initCalls s.cfg) s).wires =
      wiresAfter .hi { s.wires with lineRes := resAfterReset s.cfg s.lineRes } := by
  rw [initCalls_eq, runCalls_append, runCalls_cons, runCalls_showCalls_wires h, (SendsAt.cmd _).wires,
    wiresAfter_idem, initFront, runCalls_append, ← runCalls_reset_wires]
  rfl

/-! ## `LIFECYCLE` during INIT -/

/-- `LIFECYCLE` after `n` calls of an INIT that found it at `lc`: RESET once the panel is reset, ON after the command
that switches the display on (rule R190). -/
def initLifecycle (c : Cfg) (lc : Lifecycle) (n : Nat) : Lifecycle :=
  if n < resetLength c then lc else if n ≤ resetLength c + 1 then .reset else .poweredOn

/-- Two calls change it: the last of the reset part, and the command that switches the display on. -/
theorem initLifecycle_succ (c : Cfg) (lc : Lifecycle) (n : Nat) :
    initLifecycle c lc (n + 1) =
      if n + 1 = resetLength c then .reset
      else if n = resetLength c + 1 then .poweredOn
      else initLifecycle c lc n := by
  grind [initLifecycle]

theorem runCalls_initLifecycle (calls : List TransportCall) {s : State} {lc : Lifecycle} (hop : curOp s = 0x08)
    (h : s.lifecycle = initLifecycle s.cfg lc s.tpc) :
    (runCalls calls s).lifecycle = initLifecycle s.cfg lc (s.tpc + calls.length) := by
  induction calls generalizing s with
  | nil => exact h
  | cons call calls ih =>
    have hnext : (runCall s call).lifecycle = initLifecycle s.cfg lc (s.tpc + 1) := by
      rw [runCall_lifecycle, progressLifecycle, if_pos hop, h, initLifecycle_succ]
    rw [runCalls_cons, ih (by rw [runCall_curOp, hop]) (by rw [(runCall_frame s call).cfg, runCall_tpc, hnext]),
      (runCall_frame s call).cfg, runCall_tpc, List.length_cons, Nat.add_right_comm, Nat.add_assoc]

theorem begun_init_lifecycle (s : State) : (begun .init s).lifecycle = initLifecycle s.cfg s.lifecycle 0 := by
  refine (initStart_lifecycle (beginOp _ _ s)).trans ?_
  unfold initLifecycle resetLength
  cases hres : s.cfg.hasRes <;> simp [hres]

/-- `LIFECYCLE` after some of INIT's calls. -/
theorem runCalls_begun_init_lifecycle (calls : List TransportCall) (s : State) :
    (runCalls calls (begun .init s)).lifecycle = initLifecycle s.cfg s.lifecycle calls.length := by
  have h := runCalls_initLifecycle calls (s := begun .init s) (lc := s.lifecycle) (begun_curOp (i := .init) rfl s)
    (by rw [begun_init_lifecycle, begun_cfg, begun_tpc])
  rwa [begun_cfg, begun_tpc, Nat.zero_add] at h

theorem completedLifecycle_init {s : State} (hop : curOp s = 0x08) : completedLifecycle s = s.lifecycle := by
  rw [completedLifecycle, hop]
  rfl

/-- INIT's calls, written out (rules R180, R186, R190). -/
theorem initCalls_written {c : Cfg} (h : constructionCause c = none) :
    initCalls c =
      (if c.hasRes then [TransportCall.res true, .wait 1, .res false, .wait 20, .res true, .wait 20] else []) ++
        [TransportCall.fillFb false, .cmd 0xAF] ++
        (List.range c.PAGES).flatMap fun p => [TransportCall.cmd (0xB0 + BitVec.ofNat 8 p), .cmd 0x02, .cmd 0x10, .dataFb p] := by
  rw [initCalls, showCalls_eq h]
  rfl

theorem length_initCalls (c : Cfg) : (initCalls c).length = resetLength c + 2 + 4 * c.PAGES := by
  rw [initCalls, List.length_append, List.length_append, length_resetCalls]
  exact congrArg (resetLength c + 2 + ·) (length_pagesCalls c.PAGES)

/-- Settles O27: the calls of INIT, and what they leave, part by part. -/
theorem initRunsTheBootSequence : Obligations.InitRunsTheBootSequence := by
  unfold Obligations.InitRunsTheBootSequence
  intro s ha hc hok
  have hexec := exec_ended (i := .init) rfl ha rfl hok
  obtain ⟨hhost, hhres, -⟩ := instructionsKeepWhatTheyDoNotWrite _ _ _ hexec
  have hends := ended_endedOk .init s
  obtain ⟨hbusy, hcur, htcl, htpc, hbpc, hhstat⟩ := hends
  have hop : curOp (runCalls (opCalls .init s) (begun .init s)) = 0x08 := by
    rw [runCalls_curOp]
    exact begun_curOp (i := .init) rfl s
  have hsent : Sent (fillAll s false) (initCalls s.cfg) (begun .init s)
      (runCalls (initCalls s.cfg) (begun .init s)) := by
    have h := sent_init (s := begun .init s) (rest := .cmd (dispCmd true) :: showCalls s.cfg) fun _ => initSends_noFb
    rw [begun_cfg] at h
    rw [initCalls_eq]
    exact h.congr (begun_cfg .init s).symm (by simp)
  have hlife : (ended .init s).lifecycle = .poweredOn := by
    refine (completedLifecycle_init hop).trans ((runCalls_begun_init_lifecycle _ s).trans ?_)
    rw [opCalls, length_initCalls, initLifecycle, if_neg (by omega)]
    have := (pages_of_constructed hc).1
    exact if_neg (by omega)
  have hwires : (ended .init s).wires = wiresAfter .hi { s.wires with lineRes := resAfterReset s.cfg s.lineRes } := by
    have h := runCalls_initCalls_wires (s := begun .init s) (by rwa [begun_cfg])
    have hres : (begun .init s).lineRes = s.lineRes := congrArg Wires.lineRes (begun_wires .init s)
    rwa [begun_cfg, begun_wires, hres] at h
  obtain ⟨hres, hlines⟩ := linesAfter_of .hi { s with lineRes := resAfterReset s.cfg s.lineRes } _ hwires
  refine ⟨_, hexec, ?_, ?_, hhstat, hhost, hhres nofun, hsent.of_begun.follows.trace, ?_, fun k hk => ?_, hlife,
    ?_, hres, fun hb => ?_, fun hb => ?_⟩
  · rw [← initCalls_written hc]
    exact ⟨hbusy, hcur, htcl, htpc, hbpc, hhstat⟩
  · rw [htpc, opCalls, length_initCalls, resetLength]
    split <;> omega
  · have h := runCalls_answers (opCalls .init s) (begun .init s)
    rwa [begun_cfg, begun_answers] at h
  · exact (fbByte_congr (s := fillAll s false) hsent.fb k).trans (fbByte_fillAll s false k hk)
  · rw [ended, complete_initDone, hop]
    exact Bool.or_true _
  · simpa [hb] using hlines
  · simpa [hb] using hlines

end Sys2Proof.Machine

/-! The operations of rule R191 before INIT: each of their bus actions leaves every panel field a fresh draw (rules
R191, R252). -/

namespace Sys2Proof.Machine

/-- Rule R191 stands against the operation in progress. -/
structure BeforeInit (s : State) : Prop where
  op : isDeviceOp (curOp s) = true
  initDone : s.initDone = false

theorem BeforeInit.of_frame {s t : State} (h : BeforeInit s) (hf : CallFrame s t) : BeforeInit t :=
  ⟨by rw [curOp, hf.cur]; exact h.op, hf.initDone.trans h.initDone⟩

/-- From `s` to `t` every panel field has been drawn afresh, without a refusal, and nothing has happened to the panel
since (rule R252). -/
structure Redrawn (s t : State) : Prop where
  cfg : t.cfg = s.cfg
  refused : t.refused = s.refused
  lost : t.panel.standing.known = false
  draws : s.draws < t.draws
  drawn : drawnAt s.cfg (t.draws - 1) t.panel

theorem Redrawn.trans {s t u : State} (h : Redrawn s t) (h' : Redrawn t u) : Redrawn s u where
  cfg := h'.cfg.trans h.cfg
  refused := h'.refused.trans h.refused
  lost := h'.lost
  draws := h.draws.trans h'.draws
  drawn := h.cfg ▸ h'.drawn

/-- A state whose panel's side is that of `s`, undefined, or that after more draws. -/
theorem redrawn_of_undefine {s t : State} {r : Rx} (hc : t.cfg = s.cfg) (hrefused : r.refused = s.refused)
    (hdraws : s.draws ≤ r.draws) (h : t.rx = r.undefine s.cfg) : Redrawn s t := by
  have hpanel : t.panel = (r.undefine s.cfg).panel := congrArg Rx.panel h
  have hnext : t.draws = r.draws + 1 := congrArg Rx.draws h
  have hrefused' : t.refused = r.refused := congrArg Rx.refused h
  refine ⟨hc, hrefused'.trans hrefused, ?_, by omega, ?_⟩
  · rw [hpanel, undefine_standing, lost_known]
  · rw [hpanel, hnext, Nat.add_sub_cancel]
    exact ⟨rfl, rfl, rfl, rfl, rfl, rfl, rfl, rfl, rfl⟩

theorem takeAnswer_draws_le (s : State) : s.draws ≤ (takeAnswer s).draws := by
  unfold takeAnswer
  split
  · exact Nat.le_refl _
  · exact Nat.le_succ _

/-- Before INIT a bus action of an operation of rule R191 makes the panel undefined. -/
theorem perform_rx_beforeInit {s : State} (h : BeforeInit s) (a : BusAction) :
    (perform a s).rx = s.rx.undefine s.cfg := by
  have hu : unsupported (blockDrives a (emit a s)) = true := by
    have hinit : (blockDrives a (emit a s)).initDone = s.initDone := by cases a <;> simp [blockDrives]
    have hcur : curOp (blockDrives a (emit a s)) = curOp s := by cases a <;> simp [blockDrives, curOp]
    simp [unsupported, hinit, hcur, h.op, h.initDone]
  rw [perform_rx]
  unfold panelRx
  rw [hu]
  cases a with
  | pin line lv => cases line <;> rfl
  | wait _ | i2cTxn _ | spiCfg _ | spiXfer _ => rfl

theorem succeed_redrawn {s : State} (h : BeforeInit s) (a : BusAction) : Redrawn s (succeed s a) := by
  have hcfg := (succeed_frame a s).cfg
  unfold succeed at hcfg ⊢
  split at hcfg
  · rw [if_pos ‹_›]
    have hrx := perform_rx_beforeInit (h.of_frame (takeAnswer_frame s).call) a
    rw [takeAnswer_cfg] at hrx
    exact redrawn_of_undefine hcfg (takeAnswer_refused s) (takeAnswer_draws_le s) hrx
  · rw [if_neg ‹_›]
    exact redrawn_of_undefine hcfg rfl (Nat.le_refl _) (perform_rx_beforeInit h a)

theorem succeedAll_redrawn {s : State} (h : BeforeInit s) {acts : List BusAction} (hne : acts ≠ []) :
    Redrawn s (succeedAll acts s) := by
  induction acts generalizing s with
  | nil => exact absurd rfl hne
  | cons a acts ih =>
    have hfirst := succeed_redrawn h a
    by_cases hlast : acts = []
    · rw [hlast]
      exact hfirst
    · exact hfirst.trans (ih (h.of_frame (succeed_frame a s).call) hlast)

/-- A call that sends something has a bus action (rule R143). -/
theorem SendsAt.expansion_ne_nil {call : TransportCall} {dc : Level} (h : SendsAt call dc) (s : State) :
    expansion s call ≠ [] := by
  have hload : callLoad s.cfg call ≠ 0 := by
    cases h with
    | cmd _ | data _ | dataFb _ => rw [callLoad]; split <;> simp
  intro hnil
  rw [← fallibleCount_expansion, hnil] at hload
  exact hload rfl

theorem runCall_redrawn {s : State} (h : BeforeInit s) {call : TransportCall} {dc : Level} (hs : SendsAt call dc) :
    Redrawn s (runCall s call) := by
  obtain ⟨-, hrefused, hlost, hdraws, hdrawn⟩ := succeedAll_redrawn h (hs.expansion_ne_nil s)
  have hcfg := (runCall_frame s call).cfg
  rw [runCall, internalEffect_noFb hs.noFb] at hcfg ⊢
  exact ⟨hcfg, hrefused, hlost, hdraws, hdrawn⟩

theorem runCalls_redrawn {s : State} (h : BeforeInit s) {calls : List TransportCall} (hne : calls ≠ [])
    (hs : ∀ call ∈ calls, ∃ dc, SendsAt call dc) : Redrawn s (runCalls calls s) := by
  induction calls generalizing s with
  | nil => exact absurd rfl hne
  | cons call calls ih =>
    obtain ⟨⟨dc, hcall⟩, hrest⟩ := List.forall_mem_cons.1 hs
    have hfirst := runCall_redrawn h hcall
    by_cases hlast : calls = []
    · rw [hlast]
      exact hfirst
    · exact hfirst.trans (ih (h.of_frame (runCall_frame s call)) hlast hrest)

/-- An operation of the list of rule R191: what it is, and that its calls send something. -/
structure DeviceOp (i : Instr) (s : State) : Prop where
  isHostOp : isHostOp i = true
  ne_init : i ≠ .init
  opcode : isDeviceOp (opcodeOf i) = true
  calls : opCalls i s ≠ []
  sends : ∀ call ∈ opCalls i s, ∃ dc, SendsAt call dc

theorem deviceOp_of_list {i : Instr} {s : State} (hc : constructionCause s.cfg = none)
    (h : i = .poweron ∨ i = .poweroff ∨ (∃ v, i = .sleep v) ∨ (∃ v, i = .contrast v) ∨ (∃ v, i = .invert v) ∨
      i = .showPages ∨ (∃ c, i = .writeCmd c) ∨ i = .writeData) : DeviceOp i s := by
  have one (c : Byte) : ∀ call ∈ [TransportCall.cmd c], ∃ dc, SendsAt call dc := fun call hcall =>
    ⟨.lo, List.mem_singleton.1 hcall ▸ .cmd c⟩
  obtain rfl | rfl | ⟨v, rfl⟩ | ⟨v, rfl⟩ | ⟨v, rfl⟩ | rfl | ⟨v, rfl⟩ | rfl := h
  · exact ⟨rfl, nofun, rfl, nofun, one _⟩
  · exact ⟨rfl, nofun, rfl, nofun, one _⟩
  · exact ⟨rfl, nofun, by simp [opcodeOf, encode, isDeviceOp], nofun, one _⟩
  · exact ⟨rfl, nofun, by simp [opcodeOf, encode, isDeviceOp], nofun,
      List.forall_mem_cons.2 ⟨⟨.lo, .cmd _⟩, one _⟩⟩
  · exact ⟨rfl, nofun, by simp [opcodeOf, encode, isDeviceOp], nofun, one _⟩
  · obtain ⟨calls, p, -, he⟩ := showCalls_ends hc
    refine ⟨rfl, nofun, rfl, ?_, fun _ => sendsAt_pagesCalls⟩
    rw [opCalls, he]
    simp
  · exact ⟨rfl, nofun, by simp [opcodeOf, encode, isDeviceOp], nofun, one _⟩
  · exact ⟨rfl, nofun, rfl, nofun, fun call hcall => ⟨.hi, List.mem_singleton.1 hcall ▸ .data _⟩⟩

/-- Settles O30: each bus action of such an operation draws every panel field, and there is at least one. -/
theorem operationsBeforeInitUndefineThePanel : Obligations.OperationsBeforeInitUndefineThePanel := by
  unfold Obligations.OperationsBeforeInitUndefineThePanel
  intro i s hi ha hinit hc ho hok
  have hop : DeviceOp i s := deviceOp_of_list hc hi
  have hexec := exec_ended hop.isHostOp ha ho hok
  have hends := ended_completesAs hop.ne_init fun call hcall => by
    obtain ⟨_, hsend⟩ := hop.sends call hcall
    exact hsend.noFb
  obtain ⟨-, -, -, hkeep, -⟩ := instructionsKeepWhatTheyDoNotWrite _ _ _ hexec
  have hbefore : BeforeInit (begun i s) := ⟨by rw [begun_curOp hop.isHostOp]; exact hop.opcode, by simpa using hinit⟩
  obtain ⟨-, hrefused, hlost, hdraws, hdrawn⟩ := runCalls_redrawn hbefore hop.calls hop.sends
  have hstart := begun_of_ne_init hop.ne_init s
  rw [hstart] at hrefused hlost hdraws hdrawn
  refine ⟨_, hexec, hends.trace, ended_kind i s, (hkeep hop.ne_init).trans hinit, ?_⟩
  rw [ended, hstart]
  exact ⟨hrefused, hlost, hdraws, hdrawn⟩

end Sys2Proof.Machine

/-! An operation that fails at any of its bus actions: it has run the calls before, and ends there (rules R192, R272,
R273). -/

namespace Sys2Proof.Machine

/-! ## The run up to the failing bus action -/

/-- `seqRun_calls` for calls with others behind them: the run reaches the state they leave. -/
theorem seqRun_calls_before {calls done after : List TransportCall} {s : State} (hb : s.busy = true)
    (ht : s.tcl = done ++ calls ++ after) (hc : s.tpc = done.length) (hp : s.bpc = 0)
    (ha : s.answersOk (busLoad s.cfg calls)) :
    ∃ m ≤ 6 * calls.length, ∀ n, seqRun (m + n) s = seqRun n (runCalls calls s) := by
  induction calls generalizing s done with
  | nil => exact ⟨0, by simp, by simp [runCalls]⟩
  | cons call calls ih =>
    have hfr := runCall_frame s call
    obtain ⟨hcall, hrest⟩ := answersOk_runCall ha
    obtain ⟨m, hm, hrun⟩ := seqRun_call call s hb (by simp [ht, hc]) hp hcall
    obtain ⟨m', hm', hrun'⟩ := ih (done := done ++ [call]) (hfr.busy.trans hb) (by rw [hfr.tcl, ht]; simp)
      (by simp [hc]) rfl hrest
    refine ⟨m + m', by simp only [List.length_cons]; omega, fun n => ?_⟩
    rw [Nat.add_assoc, hrun, hrun', runCalls_cons]

/-- A call whose bus action `a` fails after `acts` have succeeded ends the operation (rule R273). -/
theorem seqRun_fails {s : State} {call : TransportCall} {acts more : List BusAction} {a : BusAction} {c : Cause}
    {k : Nat} {left : List BusAnswer} (n : Nat) (hb : s.busy = true) (hc : s.tcl[s.tpc]? = some call)
    (hbpc : s.bpc = 0) (he : expansion s call = acts ++ a :: more) (hall : a.allows c = true)
    (hans : s.answers = List.replicate (fallibleCount acts) .ok ++ .err c k :: left) :
    seqRun (acts.length + (n + 1)) s = failedAfter acts a c k s := by
  have hfr := succeedAll_frame acts s
  have hbusy : (atBpc (succeedAll acts s) acts.length).busy = true := hfr.busy.trans hb
  have hfail : seqStep (atBpc (succeedAll acts s) acts.length) = failedAfter acts a c k s := by
    refine seqStep_fails (call := call) (by simpa [atBpc, hfr.tcl, hfr.tpc] using hc) ?_ hall ?_
    · rw [expansion_atBpc, expansion_congr hfr.cfg hfr.fb, he]
      simp [atBpc]
    · simp [nextAnswer, atBpc, succeedAll_answers, hans]
  rw [seqRun_within (done := []) (n + 1) hb hc he (by simp) (by simpa using hbpc) (by simp [State.answersOk, hans]),
    List.length_nil, Nat.zero_add, seqRun, if_pos hbusy, hfail]
  exact seqRun_idle _ _ rfl

/-- An operation runs to its bus action that fails, and ends there (rules R192, R273). -/
theorem runToIdle_fails_at {s : State} {before after : List TransportCall} {call : TransportCall}
    {acts more : List BusAction} {a : BusAction} {c : Cause} {k : Nat} {left : List BusAnswer} (hb : s.busy = true)
    (ht : s.tcl = before ++ call :: after) (htpc : s.tpc = 0) (hbpc : s.bpc = 0)
    (he : expansion (runCalls before s) call = acts ++ a :: more) (hall : a.allows c = true)
    (hans : s.answers =
      List.replicate (busLoad s.cfg before + fallibleCount acts) .ok ++ .err c k :: left) :
    runToIdle s = failedAfter acts a c k (runCalls before s) := by
  have hfr := runCalls_frame before s
  obtain ⟨m, hm, hrun⟩ := seqRun_calls_before (done := []) hb ht htpc hbpc
    (by simp [State.answersOk, hans, List.take_append, List.take_replicate])
  have hlen := length_expansion (runCalls before s) call
  rw [he, List.length_append, List.length_cons] at hlen
  obtain ⟨n, hn⟩ : ∃ n, opFuel s = m + (acts.length + (n + 1)) :=
    ⟨opFuel s - m - acts.length - 1, by
      simp only [opFuel, ht, List.length_append, List.length_cons]
      omega⟩
  rw [runToIdle, hn, hrun]
  refine seqRun_fails n (hfr.busy.trans hb) ?_ (runCalls_bpc before s hbpc) he hall ?_ (call := call) (left := left)
  · rw [hfr.tcl, ht, runCalls_tpc, htpc]
    simp
  · rw [runCalls_answers, hans]
    simp [List.drop_append]

/-! ## What it has done -/

/-- What the failure leaves in the block: the call at `TPC`, the bus action at `BPC`, and the cause in `HSTAT` (rule
R273). -/
structure FailedAt (acts : List BusAction) (a : BusAction) (c : Cause) (s t : State) : Prop where
  idle : t.busy = false
  hstat : t.hstat = mkHstat kindTransport (causeCode c) (curOp s) s.tpc
  tpc : t.tpc = s.tpc
  bpc : t.bpc = acts.length
  trace : t.trace = s.trace ++ acts ++ [a]
  answers : t.answers = s.answers.drop (fallibleCount acts + 1)
  fb : t.fb = s.fb
  hres : t.hres = s.hres
  lifecycle : t.lifecycle = s.lifecycle
  initDone : t.initDone = s.initDone
  lineRes : t.lineRes = drivenBy acts .res s.lineRes
  lineDc : t.lineDc = drivenBy acts .dc s.lineDc
  lineCs : t.lineCs = drivenBy acts .cs s.lineCs

theorem failedAfter_failedAt (acts : List BusAction) {a : BusAction} {c : Cause} (hall : a.allows c = true) (k : Nat)
    (s : State) : FailedAt acts a c s (failedAfter acts a c k s) := by
  have hfr := succeedAll_frame acts s
  have hfail := (takeAnswer_frame (atBpc (succeedAll acts s) acts.length)).trans
    (performFailed_frame a k (takeAnswer (atBpc (succeedAll acts s) acts.length)))
  have hfollows := succeedAll_follows acts s
  obtain ⟨hres, hdc, hcs⟩ := failedAfter_lines (acts := acts) hall k s
  have hcur : curOp (performFailed a k (takeAnswer (atBpc (succeedAll acts s) acts.length))) = curOp s :=
    congrArg opcOf (hfail.cur.trans hfr.cur)
  refine
    { idle := rfl
      hstat := ?_
      tpc := hfail.tpc.trans hfr.tpc
      bpc := hfail.bpc
      trace := ?_
      answers := ?_
      fb := hfail.fb.trans hfr.fb
      hres := hfail.hres.trans hfr.hres
      lifecycle := hfail.lifecycle.trans hfr.lifecycle
      initDone := hfail.initDone.trans hfr.initDone
      lineRes := hres.trans hfollows.res
      lineDc := hdc.trans hfollows.dc
      lineCs := hcs.trans hfollows.cs }
  · rw [failedAfter, abort_hstat, hcur, hfail.tpc]
    exact congrArg _ hfr.tpc
  · rw [failedAfter, abort_trace, performFailed_trace, takeAnswer_trace]
    exact congrArg (· ++ [a]) hfollows.trace
  · rw [failedAfter, abort_answers, performFailed_answers, takeAnswer_answers, ← List.drop_one]
    exact (congrArg (List.drop 1) (succeedAll_answers acts s)).trans List.drop_drop

/-! ## The calls before the failing one -/

/-- A call with a bus action that can fail sends something (rules R66, R143). -/
theorem sendsAt_of_fallible {s : State} {call : TransportCall} {a : BusAction} (ha : a ∈ expansion s call)
    (hf : a.fallible = true) : ∃ dc, SendsAt call dc := by
  cases call with
  | cmd c => exact ⟨_, .cmd c⟩
  | data l => exact ⟨_, .data l⟩
  | dataFb p => exact ⟨_, .dataFb p⟩
  | res _ | wait _ =>
    obtain rfl := List.mem_singleton.1 ha
    cases hf
  | fillFb _ | fbw _ _ | fbr _ => cases ha

/-- No call of INIT up to the filling of the framebuffer sends anything to the panel. -/
theorem not_sendsAt_initFront {c : Cfg} {call : TransportCall} {dc : Level} (h : call ∈ initFront c) :
    ¬ SendsAt call dc := by
  obtain h | h := List.mem_append.1 h
  · obtain ⟨-, ⟨lv, rfl⟩ | ⟨ms, rfl⟩⟩ := mem_resetCalls h <;> nofun
  · obtain rfl := List.mem_singleton.1 h
    nofun

/-- INIT's calls before one that sends something: the filling is among them, and behind it no FB access. -/
theorem initCalls_before {c : Cfg} {before after : List TransportCall} {call : TransportCall} {dc : Level}
    (hs : SendsAt call dc) (h : initCalls c = before ++ call :: after) :
    ∃ rest, before = initFront c ++ rest ∧ ∀ call ∈ rest, noFb call = true := by
  rw [initCalls_eq] at h
  obtain ⟨rest, hbefore, hrest⟩ | ⟨left, hfront, hleft⟩ := List.append_eq_append_iff.1 h
  · refine ⟨rest, hbefore, fun d hd => initSends_noFb (c := c) ?_⟩
    rw [hrest]
    exact List.mem_append_left _ hd
  · cases left with
    | nil => exact ⟨[], by simpa using hfront.symm, nofun⟩
    | cons d left =>
      obtain ⟨rfl, -⟩ := List.cons.inj hleft
      exact absurd hs (not_sendsAt_initFront (c := c) (by rw [hfront]; simp))

/-- The calls of an operation before one that sends something have sent what they send from the framebuffer that the
operation sends from. -/
theorem sent_before {i : Instr} {s : State} {before after : List TransportCall} {call : TransportCall} {dc : Level}
    (hs : SendsAt call dc) (hc : opCalls i s = before ++ call :: after) :
    Sent (sentFrom i s) before s (runCalls before (begun i s)) := by
  by_cases hinit : i = .init
  · subst hinit
    obtain ⟨rest, rfl, hrest⟩ := initCalls_before hs hc
    have h := sent_init (s := begun .init s) hrest
    rw [begun_cfg] at h
    exact (h.congr (v' := fillAll s false) (begun_cfg .init s).symm (by simp)).of_begun
  · have hnoFb : ∀ d ∈ opCalls i s, noFb d = true := by
      have hother (d : TransportCall) (hop : FbOp s i d) : False := by
        have hmem : call ∈ opCalls i s := by rw [hc]; simp
        rw [hop.opCalls] at hmem
        obtain rfl := List.mem_singleton.1 hmem
        exact hs.expansion_ne_nil s (hop.expansion s)
      refine opCalls_noFb hinit (fun v hv => ?_) (fun v hv => ?_) (fun hv => ?_) s <;> subst hv
      · exact hother _ (.fill v)
      · exact hother _ (.write v)
      · exact hother _ .read
    have h := sent_of_noFb (s := begun i s) (calls := before) fun d hd => hnoFb d (by rw [hc]; simp [hd])
    rw [sentFrom, if_neg hinit]
    exact (h.congr (v' := s) (begun_cfg i s).symm (begun_fb i s).symm).of_begun

/-- `LIFECYCLE` after INIT's calls before one that sends something (rule R190). -/
theorem initLifecycle_before {c : Cfg} {before after : List TransportCall} {call : TransportCall} {dc : Level}
    (hs : SendsAt call dc) (h : initCalls c = before ++ call :: after) (lc : Lifecycle) :
    initLifecycle c lc before.length =
      if before.length = (if c.hasRes then 7 else 1) then .reset else .poweredOn := by
  obtain ⟨rest, rfl, -⟩ := initCalls_before hs h
  have hlen : resetLength c + 1 = if c.hasRes then 7 else 1 := by unfold resetLength; split <;> rfl
  rw [← hlen, initLifecycle]
  rw [List.length_append, length_initFront, if_neg (by omega)]
  by_cases hrest : rest.length = 0
  · rw [if_pos (by omega), if_pos (by omega)]
  · rw [if_neg (by omega), if_neg (by omega)]

/-- Settles O32: the operation has run the calls before the failing one, and of that one the bus actions before `a`. -/
theorem failedOperationStopsAtTheFailingAction : Obligations.FailedOperationStopsAtTheFailingAction := by
  unfold Obligations.FailedOperationStopsAtTheFailingAction
  intro i s before after call done more a c n rest hi ha ho hc he hans hall
  obtain ⟨dc, hs⟩ := sendsAt_of_fallible (s := sentFrom i s) (call := call) (a := a) (by rw [he]; simp)
    (fallible_of_allows hall)
  have hsent := sent_before hs hc
  have hfr := runCalls_frame before (begun i s)
  have hcfg : (runCalls before (begun i s)).cfg = (sentFrom i s).cfg := by
    rw [hfr.cfg, begun_cfg, sentFrom]
    split <;> rfl
  have hexp : expansion (runCalls before (begun i s)) call = done ++ a :: more := by
    rw [expansion_congr hcfg hsent.fb, he]
  have hbegun : (begun i s).answers =
      List.replicate (busLoad (begun i s).cfg before + fallibleCount done) .ok ++ .err c n :: rest := by
    rw [begun_answers, begun_cfg]
    exact hans
  have hexec := exec_accepted hi ha ho
  rw [runToIdle_fails_at (begun_busy i s) ((begun_tcl i s).trans hc) (begun_tpc i s) (begun_bpc i s) hexp hall hbegun]
    at hexec
  have hfail := failedAfter_failedAt done hall n (runCalls before (begun i s))
  have htpc : (runCalls before (begun i s)).tpc = before.length := by rw [runCalls_tpc, begun_tpc, Nat.zero_add]
  have hline {line : Line} {lv lv' : Level} (h : lv' = drivenBy (wireOf (sentFrom i s) before) line lv) :
      drivenBy done line lv' = drivenBy (wireOf (sentFrom i s) before ++ done) line lv := by rw [h, drivenBy_append]
  refine ⟨_, hexec, hfail.idle, ?_, hfail.tpc.trans htpc, hfail.bpc, ?_, exec_sameHost hexec, ?_,
    hfail.fb.trans hsent.fb, hfail.hres.trans hsent.hres,
    hfail.initDone.trans (hfr.initDone.trans (begun_initDone i s)), fun hne => ?_, fun hinit => ?_,
    hfail.lineRes.trans (hline hsent.follows.res), hfail.lineDc.trans (hline hsent.follows.dc),
    hfail.lineCs.trans (hline hsent.follows.cs)⟩
  · rw [hfail.hstat, runCalls_curOp, begun_curOp hi, htpc]
    rfl
  · rw [hfail.answers, runCalls_answers, hbegun, List.drop_drop, ← Nat.add_assoc]
    simp [List.drop_append]
  · rw [hfail.trace, hsent.follows.trace]
  · rw [hfail.lifecycle, runCalls_lifecycle before (begun_curOp_ne_init hi hne s), begun_of_ne_init hne]
    rfl
  · subst hinit
    rw [hfail.lifecycle, runCalls_begun_init_lifecycle, initLifecycle_before hs hc]

end Sys2Proof.Machine

/-! The units of the panel's wire one by one: what the command bytes, a data byte and an address byte do to a panel
that hears them (rules R98, R99, R232, R235, R238, R240 to R247). -/

namespace Sys2Proof.Machine

/-! ## Command bytes -/

/-- A unit of one command byte is the command that the byte decodes to, for a panel that awaits no contrast value
(rule R98). -/
theorem exec_command {i : Instr} {b : Byte} {cmd : PanelCmd} {s : State} (hh : s.hears) (hp : s.panel.cpend = false)
    (he : encode i = .wire .cmd [b]) (hb : decodeCommand b = some cmd) :
    exec i s = .next { s with panel := s.panel.heard.obey cmd } := by
  rw [exec_of_wire_singleton he, receive, deliverCmd_decoded hh hp hb]
  rfl

/-- A flag operand is set when it is 1. -/
theorem flag_getLsbD (f : BitVec 1) : f.getLsbD 0 = (f == 1) := by
  revert f
  decide

/-- Settles O36: each of the five commands is its one byte, and that byte decodes to it. -/
theorem panelCommandsSetTheirField : Obligations.PanelCommandsSetTheirField := by
  unfold Obligations.PanelCommandsSetTheirField
  refine fun s hh hp => ⟨fun lo => exec_command hh hp rfl (decodeCommand_lowColByte lo),
    fun hi => exec_command hh hp rfl (decodeCommand_highColByte hi),
    fun p => exec_command hh hp rfl (decodeCommand_pageByte p), fun f => ?_, fun f => ?_⟩ <;> rw [← flag_getLsbD]
  · exact exec_command hh hp rfl (decodeCommand_normInvByte f)
  · exact exec_command hh hp rfl (decodeCommand_dispByte f)

/-- The first byte of SET_CONTRAST makes the panel await the level (rule R241). -/
theorem deliverCmd_contrastFirst {s : State} (hh : s.hears) (hp : s.panel.cpend = false) :
    deliverCmd s.wires 0x81 s.rx = withPanel s { s.panel with cpend := true, standing := .ordinary } :=
  deliverCmd_decoded (cmd := .contrastFirst) hh hp rfl

/-- A command byte that is no whole instruction, to a panel that awaits no contrast value, reaches it as it is. -/
theorem fetchWire_cmd_undecoded {b : Byte} {left : List Byte} {e : DecodeError} {s : State}
    (hp : s.panel.cpend = false) (he : decodeWire .cmd (b :: left) = .error e) :
    fetchWire .cmd (b :: left) s = .goes (leave .cmd left (undecoded .cmd b s)) := by
  simp [fetchWire, hp, he]

/-- Settles O37: the first byte makes the panel await a value, and the next command byte is that value. -/
theorem setContrastTakesTwoBytes : Obligations.SetContrastTakesTwoBytes := by
  unfold Obligations.SetContrastTakesTwoBytes
  refine fun s rest hh => ⟨fun level hp => ?_, fun hp hb hi => ?_, fun b hp hb hi => ?_⟩
  · have hfirst := deliverCmd_contrastFirst hh hp
    have hsecond : deliverCmd s.wires level (withPanel s { s.panel with cpend := true, standing := .ordinary }) =
        withPanel s { s.panel with contrast := level, cpend := false, standing := .ordinary } :=
      deliverCmd_awaited (s := { s with panel := { s.panel with cpend := true, standing := .ordinary } })
        ⟨rfl, hh.2⟩ rfl level
    calc exec (.setContrast level) s
      _ = .next (s.setRx (deliverCmd s.wires level (deliverCmd s.wires 0x81 s.rx))) :=
        exec_of_wire (i := .setContrast level) rfl s
      _ = .next (s.setRx (withPanel s { s.panel with contrast := level, cpend := false, standing := .ordinary })) := by
        rw [hfirst, hsecond]
      _ = .next { s with panel := { s.panel with contrast := level, standing := .ordinary } } := by
        rw [← hp]
        rfl
  · refine step_of_input hb hi ?_
    have he : decodeWire .cmd [0x81] = .error .truncated := rfl
    refine (fetchWire_cmd_undecoded (s := { s with inputs := rest }) hp he).trans ?_
    exact congrArg (fun r => Fetched.goes ({ s with inputs := rest }.setRx r)) (deliverCmd_contrastFirst hh hp)
  · refine step_of_input hb hi ?_
    refine (fetchWire_awaited b [] { s with inputs := rest } hp).trans ?_
    exact congrArg (fun r => Fetched.goes ({ s with inputs := rest }.setRx r)) (deliverCmd_awaited hh hp b)

/-! ## Data bytes -/

/-- The addressed place is inside the display memory (rule R240). -/
theorem outsideRam_eq_false {w : Wires} {p : Panel} :
    outsideRam w p = false ↔ p.page.toNat < w.par.panelPages ∧ p.col.toNat < w.par.panelCols := by
  simp [outsideRam]

/-- A data byte that the panel refuses: a contrast value is awaited, or the place is outside the display memory
(rule R240). -/
theorem deliverData_refused {w : Wires} {r : Rx} (hk : r.panel.standing.known = true) (hd : duringReset w r = false)
    (h : r.panel.cpend = true ∨ outsideRam w r.panel = true) (b : Byte) : Rejected (deliverData w b r) := by
  rw [deliverData_hears w b r hk hd, if_pos (by simpa using h)]
  exact refuse_rejected _ _

/-- A data byte that the panel stores (rule R240). -/
theorem deliverData_stored {w : Wires} {r : Rx} (hk : r.panel.standing.known = true) (hd : duringReset w r = false)
    (hp : r.panel.cpend = false) (hin : outsideRam w r.panel = false) (b : Byte) :
    deliverData w b r = storeData b (r.onPanel Panel.heard) := by
  rw [deliverData_hears w b r hk hd, hp, hin]
  rfl

/-- The column and the next free value after a stored byte: the column advances by one, past 0xFF it is drawn (rule
R240; log 11). -/
theorem storeData_col (b : Byte) (r : Rx) :
    (r.panel.col ≠ 0xFF → (storeData b r).panel.col = r.panel.col + 1 ∧ (storeData b r).draws = r.draws) ∧
      (r.panel.col = 0xFF →
        (storeData b r).panel.col = Config.anyNextCol r.draws ∧ (storeData b r).draws = r.draws + 1) := by
  refine ⟨fun h => ?_, fun h => ?_⟩
  · have hend : r.panel.colAtEnd = false := beq_false_of_ne h
    simp [storeData, hend]
  · have hend : r.panel.colAtEnd = true := beq_iff_eq.2 h
    simp [storeData, hend]

/-- Settles O39: the byte goes to the place of the page and the column if there is one, and is refused if not. -/
theorem dataByteIsStoredOrRefused : Obligations.DataByteIsStoredOrRefused := by
  unfold Obligations.DataByteIsStoredOrRefused
  intro s d hh
  obtain ⟨hk, hd⟩ := hh
  refine ⟨fun hp hpage hcol => ?_, fun h => ?_⟩
  · have hexec : exec (.dataByte d) s = .next (s.setRx (storeData d (s.rx.onPanel Panel.heard))) := by
      rw [← deliverData_stored (w := s.wires) (r := s.rx) hk hd hp (outsideRam_eq_false.2 ⟨hpage, hcol⟩) d]
      exact exec_of_wire_singleton (i := .dataByte d) rfl s
    obtain ⟨hnext, hend⟩ := storeData_col d (s.rx.onPanel Panel.heard)
    exact ⟨_, hexec, rfl, hnext, hend, fun pg col => pramByte_put s.panel _ _ pg col d⟩
  · have hout : s.panel.cpend = true ∨ outsideRam s.wires s.panel = true := by
      rwa [outsideRam, Bool.or_eq_true, decide_eq_true_eq, decide_eq_true_eq]
    exact exec_rejected rfl (deliverData_refused (r := s.rx) hk hd hout d)

/-! ## Address bytes -/

/-- The address byte of another device does not select the panel (rule R235). -/
theorem selectsPanel_other {w : Wires} {b : Byte} (h : b.extractLsb' 1 7 ≠ w.par.panelAddr) :
    selectsPanel w b = false := by
  rw [selectsPanel, beq_false_of_ne h, Bool.false_and]

/-- Settles O40: what the first byte of a transaction does where it selects the panel, where it does not, and on
SPI. -/
theorem addressByteSelectsThePanel : Obligations.AddressByteSelectsThePanel := by
  unfold Obligations.AddressByteSelectsThePanel
  intro s a
  have hexec : exec (.i2cAddress a) s = .next (s.setRx (i2cStart s.wires (addrByte a) s.rx)) := rfl
  refine ⟨fun hb hh ha => ?_, fun hb hs ha => ?_, fun hb => ?_⟩ <;> rw [hexec]
  · rw [i2cStart_selected _ _ _ hb (selectsPanel_addrByte ha) hh.1 hh.2]
    rfl
  · rw [i2cStart_other _ _ _ hb hs (selectsPanel_other (by rwa [extract_addrByte]))]
    rfl
  · have hstart : i2cStart s.wires (addrByte a) s.rx = s.rx := by simp [i2cStart, hb]
    rw [hstart, setRx_self]

end Sys2Proof.Machine

/-! I2C transactions: the frames of one addressed to the panel, and one for another device (rules R231 to R235). -/

namespace Sys2Proof.Machine

/-! ## One byte of a transaction -/

theorem withFh_withFh (f g : FhState) (r : Rx) : withFh f (withFh g r) = withFh f r := by
  cases hk : r.panel.standing.known with
  | true =>
    rw [withFh_known g r hk, withFh_known f r hk, withFh_known f (r.onPanel (Panel.setFh g)) hk]
    rfl
  | false => rw [withFh_lost g r hk]

/-- A control byte begins a frame (rule R233). -/
theorem i2cByte_control {w : Wires} {r : Rx} (hk : r.panel.standing.known = true) (hd : duringReset w r = false)
    {b : Byte} {c : Control} (hb : decodeControl b = some c) :
    i2cByte w (withFh .ctrl r) b = withFh (Control.next c) r := by
  rw [withFh_known .ctrl r hk, withFh_known _ r hk]
  have hcontrol : controlByte w b (r.onPanel (Panel.setFh .ctrl)) = r.onPanel (Panel.setFh (Control.next c)) := by
    rw [controlByte, listening_hears w _ (r.onPanel (Panel.setFh .ctrl)) hk hd, hb]
    rfl
  simpa [i2cByte, Panel.setFh, known_ne_abandoned hk] using hcontrol

/-- The payload of a frame with Co = 1 is delivered, and a control byte comes next (rule R233). -/
theorem i2cByte_one {w : Wires} {r : Rx} (hk : r.panel.standing.known = true) (hd : duringReset w r = false)
    (k : Kind) (b : Byte) : i2cByte w (withFh (.one k) r) b = withFh .ctrl (deliver w k b r) := by
  rw [withFh_known _ r hk]
  have hpayload : payloadOne w k b (r.onPanel (Panel.setFh (.one k))) = withFh .ctrl (deliver w k b r) := by
    rw [← withFh_withFh .ctrl (.one k), ← deliver_setFh w k b r (.one k) hk hd]
    rfl
  simpa [i2cByte, Panel.setFh, known_ne_abandoned hk] using hpayload

/-- A payload byte of a frame with Co = 0 is delivered, and the next byte is payload too (rule R233). -/
theorem i2cByte_stream {w : Wires} {r : Rx} (hu : r.panel.standing ≠ .undefined) (hd : duringReset w r = false)
    (k : Kind) (b : Byte) : i2cByte w (withFh (.stream k) r) b = withFh (.stream k) (deliver w k b r) := by
  cases hk : r.panel.standing.known with
  | true =>
    rw [← deliver_setFh w k b r (.stream k) hk hd, withFh_known _ r hk]
    simp [i2cByte, Panel.setFh, known_ne_abandoned hk]
  | false =>
    rw [deliver_lost w k b r hk, withFh_lost _ r hk, withFh_lost _ (r.redraw w.cfg) hk]
    exact i2cByte_abandoned w r b (abandoned_of_lost hk hu)

/-- The payload of a frame with Co = 0 (rule R233). -/
theorem foldl_stream {w : Wires} {r : Rx} (hu : r.panel.standing ≠ .undefined) (hd : duringReset w r = false)
    (k : Kind) (l : List Byte) : l.foldl (i2cByte w) (withFh (.stream k) r) =
      withFh (.stream k) (l.foldl (fun r b => deliver w k b r) r) := by
  induction l generalizing r with
  | nil => rfl
  | cons b l ih =>
    rw [List.foldl_cons, List.foldl_cons, i2cByte_stream hu hd]
    exact ih (deliver_ne w k b r hu) ((deliver_during w k b r).trans hd)

/-! ## Frames -/

/-- A frame with Co = 1: the control byte of its kind, and its payload byte (rules R100, R233). -/
def frameBytes (f : Kind × Byte) : List Byte := [match f.1 with | .cmd => 0x80 | .data => 0xC0, f.2]

/-- What frames with Co = 1 deliver, in order. -/
def deliverFrames (w : Wires) (frames : List (Kind × Byte)) (r : Rx) : Rx :=
  frames.foldl (fun r f => deliver w f.1 f.2 r) r

/-- No delivery brings a lost panel back (rules R252, R280). -/
theorem deliverFrames_lost {w : Wires} {r : Rx} (hk : r.panel.standing.known = false)
    (frames : List (Kind × Byte)) : (deliverFrames w frames r).panel.standing.known = false := by
  induction frames generalizing r with
  | nil => exact hk
  | cons f frames ih =>
    have hfirst : (deliver w f.1 f.2 r).panel.standing.known = false := by
      rw [deliver_lost w f.1 f.2 r hk]
      exact hk
    exact ih hfirst

/-- A panel that is still modelled after deliveries has been so before them. -/
theorem known_of_deliverFrames {w : Wires} {r : Rx} {frames : List (Kind × Byte)}
    (h : (deliverFrames w frames r).panel.standing.known = true) : r.panel.standing.known = true := by
  by_contra hk
  rw [deliverFrames_lost (known_eq hk)] at h
  cases h

theorem deliverFrames_during (w : Wires) (frames : List (Kind × Byte)) (r : Rx) :
    duringReset w (deliverFrames w frames r) = duringReset w r := by
  induction frames generalizing r with
  | nil => rfl
  | cons f frames ih => exact (ih _).trans (deliver_during w f.1 f.2 r)

/-- One frame with Co = 1 delivers its payload (rule R233). -/
theorem foldl_frameBytes {w : Wires} {r : Rx} (hk : r.panel.standing.known = true) (hd : duringReset w r = false)
    (f : Kind × Byte) :
    (frameBytes f).foldl (i2cByte w) (withFh .ctrl r) = withFh .ctrl (deliver w f.1 f.2 r) := by
  obtain ⟨k, b⟩ := f
  rw [← i2cByte_one hk hd k b]
  have hctl {c : Byte} (hc : decodeControl c = some (.one k)) :
      i2cByte w (withFh .ctrl r) c = withFh (.one k) r := i2cByte_control hk hd hc
  cases k with
  | cmd => exact congrArg (i2cByte w · b) (hctl (c := 0x80) rfl)
  | data => exact congrArg (i2cByte w · b) (hctl (c := 0xC0) rfl)

/-- Frames with Co = 1 deliver their payloads in order (rule R233). -/
theorem foldl_frames {w : Wires} {r : Rx} {frames : List (Kind × Byte)} (hd : duringReset w r = false)
    (hlast : (deliverFrames w frames r).panel.standing.known = true) :
    (frames.flatMap frameBytes).foldl (i2cByte w) (withFh .ctrl r) = withFh .ctrl (deliverFrames w frames r) := by
  induction frames generalizing r with
  | nil => rfl
  | cons f frames ih =>
    rw [List.flatMap_cons, List.foldl_append, foldl_frameBytes (known_of_deliverFrames hlast) hd]
    exact ih ((deliver_during w f.1 f.2 r).trans hd) hlast

/-- A transaction addressed to the panel: frames with Co = 1, and the bytes behind them. -/
theorem i2cTransaction_frames {w : Wires} {r : Rx} {a : Byte} {frames : List (Kind × Byte)}
    (hb : w.cfg.bus = .i2c) (hs : selectsPanel w a = true) (hk : r.panel.standing.known = true)
    (hd : duringReset w r = false) (hlast : (deliverFrames w frames r).panel.standing.known = true)
    (tail : List Byte) : i2cTransaction w (a :: frames.flatMap frameBytes ++ tail) r =
      i2cStop (tail.foldl (i2cByte w) (withFh .ctrl (deliverFrames w frames r))) := by
  rw [List.cons_append, i2cTransaction, i2cStart_selected w a r hb hs hk hd, ← withFh_known .ctrl r hk,
    List.foldl_append, foldl_frames hd hlast]

/-- Settles O43: the frames with Co = 1 leave the frame handler awaiting a control byte, and what follows begins
there. -/
theorem framesDeliverTheirPayload : Obligations.FramesDeliverTheirPayload := by
  unfold Obligations.FramesDeliverTheirPayload
  intro w r a frames l hb hs hk hd hlast head last
  have htail : ∀ tail, i2cTransaction w (a :: head ++ tail) r =
      i2cStop (tail.foldl (i2cByte w) (withFh .ctrl last)) := i2cTransaction_frames hb hs hk hd hlast
  have hidle : duringReset w last = false := (deliverFrames_during w frames r).trans hd
  have hstream (k : Kind) {b : Byte} (hc : decodeControl b = some (.stream k)) :
      i2cTransaction w (a :: head ++ b :: l) r = i2cStop (l.foldl (fun r b => deliver w k b r) last) := by
    rw [htail, List.foldl_cons, i2cByte_control hlast hidle hc, Control.next,
      foldl_stream (known_ne hlast) hidle, i2cStop_withFh]
  refine ⟨?_, ?_, hstream .cmd rfl, hstream .data rfl⟩
  · rw [← List.append_nil (a :: head), htail, List.foldl_nil, i2cStop_withFh]
  · rw [htail, List.foldl_cons, List.foldl_nil, i2cByte_control (c := .one .cmd) hlast hidle rfl, i2cStop_withFh]

/-! ## A transaction for another device -/

/-- The bytes of a transaction for another device do nothing (rule R235). -/
theorem foldl_dropped {w : Wires} {r : Rx} (ha : r.panel.standing ≠ .abandoned) (hf : r.panel.fh = .dropped)
    (l : List Byte) : l.foldl (i2cByte w) r = r := by
  induction l with
  | nil => rfl
  | cons b l ih => rw [List.foldl_cons, i2cByte_dropped w r b ha hf, ih]

/-- The stop condition finds the frame handler dropped already. -/
theorem i2cStop_dropped {r : Rx} (hf : r.panel.fh = .dropped) : i2cStop r = r := by
  unfold i2cStop
  split
  · rw [Rx.onPanel, Panel.setFh, ← hf]
  · rfl

/-- Settles O44: the address byte drops the frame handler, and nothing after it reaches the panel. -/
theorem otherAddressDeliversNothing : Obligations.OtherAddressDeliversNothing := by
  unfold Obligations.OtherAddressDeliversNothing
  intro w r a l hb ha hs
  have hsel : selectsPanel w a = false := ha.elim selectsPanel_other (selectsPanel_read w)
  rw [i2cTransaction, i2cStart_other w a r hb hs hsel, foldl_dropped (r := r.onPanel (Panel.setFh .dropped)) hs rfl,
    i2cStop_dropped (r := r.onPanel (Panel.setFh .dropped)) rfl]
  rfl

end Sys2Proof.Machine

/-! What the panel receives beside the bytes that the rules give a meaning: SPI bytes by the lines, the units that reach
a lost panel, and the pulse on the reset line (rules R236, R237, R249, R252, R280). -/

namespace Sys2Proof.Machine

/-! ## SPI receiver -/

/-- With CS high the panel receives nothing (rule R236). -/
theorem spiByte_unselected {w : Wires} (hc : w.cfg.hasCs = true) (hl : w.lineCs ≠ .lo) (r : Rx) (b : Byte) :
    spiByte w r b = r := by
  simp [spiByte, hc, hl]

/-- With CS low, or without a CS line, the panel takes the byte as the D/C line says (rule R236). -/
theorem spiByte_selected {w : Wires} (h : w.cfg.hasCs = false ∨ w.lineCs = .lo) (r : Rx) (b : Byte) :
    (w.lineDc = .lo → spiByte w r b = deliver w .cmd (rxByte w b r) (rxDrawn w r)) ∧
      (w.lineDc = .hi → spiByte w r b = deliver w .data (rxByte w b r) (rxDrawn w r)) ∧
      (w.lineDc = .x → spiByte w r b = listening w (fun r => r.refuse w.cfg) (rxDrawn w r)) := by
  have hsel : (w.cfg.hasCs && w.lineCs != .lo) = false := by
    obtain h | h := h <;> simp [h]
  refine ⟨fun hdc => ?_, fun hdc => ?_, fun hdc => ?_⟩ <;> rw [spiByte, hsel, hdc] <;> rfl

theorem rxGarbled_iff (w : Wires) : rxGarbled w = true ↔
    w.par.panelMaxBaud < w.cfg.spiBaud ∨ w.spiMode ≠ { baud := w.cfg.spiBaud, pol := 0, pha := 0 } := by
  simp [rxGarbled, blockMode]

/-- The receiver's draw changes no panel field. -/
theorem rxDrawn_panel (w : Wires) (r : Rx) : (rxDrawn w r).panel = r.panel := by
  unfold rxDrawn
  split <;> rfl

/-- A byte that a panel still modelled can only refuse, in a reset or not. -/
theorem listening_refuse {w : Wires} {r : Rx} (hk : r.panel.standing.known = true) :
    Rejected (listening w (fun r => r.refuse w.cfg) r) := by
  rw [listening, if_pos hk, ite_self]
  exact refuse_rejected _ _

/-- Settles O45: what the receiver takes is fixed by CS, D/C, the rate and the mode. -/
theorem spiReceiverReadsTheLines : Obligations.SpiReceiverReadsTheLines := by
  unfold Obligations.SpiReceiverReadsTheLines
  refine fun w r b => ⟨fun hc hl => spiByte_unselected hc hl r b, fun hsel => ?_⟩
  obtain ⟨hlo, hhi, hx⟩ := spiByte_selected hsel r b
  refine ⟨fun hdc hk => ?_, fun hrate hmode => ?_, fun hfault => ?_⟩
  · have hrej : Rejected (spiByte w r b) := by
      rw [hx hdc]
      exact listening_refuse (by rwa [rxDrawn_panel])
    exact ⟨hrej.refused, hrej.standing⟩
  · have hg : rxGarbled w = false := by
      rw [← Bool.not_eq_true, rxGarbled_iff]
      exact not_or.2 ⟨Nat.not_lt.2 hrate, not_not.2 hmode⟩
    have hbyte : rxByte w b r = b := by simp [rxByte, hg]
    have hdrawn : rxDrawn w r = r := by simp [rxDrawn, hg]
    rw [hbyte, hdrawn] at hlo hhi
    exact ⟨hlo, hhi⟩
  · have hg : rxGarbled w = true := (rxGarbled_iff w).2 hfault
    have hbyte : rxByte w b r = Config.anyRxByte r.draws := if_pos hg
    have hdrawn : rxDrawn w r = { r with draws := r.draws + 1 } := if_pos hg
    rw [hbyte, hdrawn] at hlo hhi
    exact ⟨hlo, hhi⟩

/-! ## Units to a lost panel -/

/-- A byte of a transaction that a lost panel takes part in draws its fields again (rules R252, R280). -/
theorem i2cByte_lost {w : Wires} {r : Rx} (hk : r.panel.standing.known = false)
    (hf : r.panel.fh ≠ .dropped ∨ r.panel.standing = .abandoned) (b : Byte) : i2cByte w r b = r.redraw w.cfg := by
  unfold i2cByte
  split
  · rfl
  · rename_i ha
    cases hfh : r.panel.fh with
    | dropped => exact absurd hfh (hf.resolve_right ha)
    | ctrl => exact listening_lost w _ r hk
    | one k =>
      have hend : ¬ (r.redraw w.cfg).panel.standing.known = true := ne_true_of_eq_false hk
      simp only [payloadOne, deliver_lost w k b r hk]
      exact if_neg hend
    | stream k => exact deliver_lost w k b r hk

/-- The address byte that a lost panel takes: its own, or any if it is no longer modelled (rules R252, R280). -/
theorem i2cStart_lost {w : Wires} {r : Rx} (hk : r.panel.standing.known = false) (hb : w.cfg.bus = .i2c) {b : Byte}
    (h : selectsPanel w b = true ∨ r.panel.standing = .abandoned) : i2cStart w b r = r.redraw w.cfg := by
  rw [i2cStart, hb]
  by_cases ha : r.panel.standing = .abandoned
  · exact if_pos ha
  · rw [if_neg ha, if_pos (h.resolve_right ha)]
    exact listening_lost w _ r hk

/-- From `r` to `r'` every panel field has been drawn afresh, without a refusal, and the panel's standing is as it was
(rules R252, R280). -/
structure DrawnAgain (c : Cfg) (r r' : Rx) : Prop where
  refused : r'.refused = r.refused
  standing : r'.panel.standing = r.panel.standing
  draws : r.draws < r'.draws
  drawn : drawnAt c (r'.draws - 1) r'.panel

theorem drawnAgain_redraw (c : Cfg) (r : Rx) : DrawnAgain c r (r.redraw c) :=
  ⟨rfl, rfl, Nat.lt_succ_self _, rfl, rfl, rfl, rfl, rfl, rfl, rfl, rfl, rfl⟩

/-- A unit of one byte that draws the panel's fields again. -/
theorem exec_drawnAgain {i : Instr} {f : WireFormat} {b : Byte} {s : State} (he : encode i = .wire f [b])
    (h : receive f s.wires s.rx b = s.rx.redraw s.cfg) :
    ∃ r, exec i s = .next (s.setRx r) ∧ DrawnAgain s.cfg s.rx r :=
  ⟨_, (exec_of_wire_singleton he s).trans (by rw [h]), drawnAgain_redraw _ _⟩

/-- The two bytes of SET_CONTRAST to a lost panel. -/
theorem exec_setContrast_lost {s : State} (hk : s.panel.standing.known = false) (level : Byte) :
    ∃ r, exec (.setContrast level) s = .next (s.setRx r) ∧ DrawnAgain s.cfg s.rx r := by
  have hfirst : deliverCmd s.wires 0x81 s.rx = s.rx.redraw s.cfg := deliver_lost s.wires .cmd 0x81 s.rx hk
  have hsecond : deliverCmd s.wires level (s.rx.redraw s.cfg) = (s.rx.redraw s.cfg).redraw s.cfg :=
    deliver_lost s.wires .cmd level (s.rx.redraw s.cfg) hk
  have hexec : exec (.setContrast level) s =
      .next (s.setRx (deliverCmd s.wires level (deliverCmd s.wires 0x81 s.rx))) :=
    exec_of_wire (i := .setContrast level) rfl s
  rw [hfirst, hsecond] at hexec
  obtain ⟨hrefused, hstanding, hdraws, hdrawn⟩ := drawnAgain_redraw s.cfg (s.rx.redraw s.cfg)
  exact ⟨_, hexec, hrefused, hstanding, Nat.lt_of_succ_lt hdraws, hdrawn⟩

/-- Every unit that a lost panel receives draws its fields again. -/
theorem exec_lost {i : Instr} {s : State} (hi : isHostOp i = false) (hk : s.panel.standing.known = false)
    (haddr : ∀ a, i = .i2cAddress a →
      s.cfg.bus = .i2c ∧ (a = s.par.panelAddr ∨ s.panel.standing = .abandoned))
    (hctl : i = .ctlOneCmd ∨ i = .ctlDataStream ∨ i = .ctlCmdStream ∨ i = .ctlOneData →
      s.panel.fh ≠ .dropped ∨ s.panel.standing = .abandoned) :
    ∃ r, exec i s = .next (s.setRx r) ∧ DrawnAgain s.cfg s.rx r := by
  cases i with
  | reset | poweron | poweroff | sleep _ | contrast _ | invert _ | showPages | init | fill _ | writeCmd _
  | writeData | fbWrite _ | fbRead => cases hi
  | setLowCol _ | setHighCol _ | setNormInv _ | setDisp _ | setPage _ =>
    exact exec_drawnAgain rfl (deliver_lost s.wires .cmd _ s.rx hk)
  | setContrast level => exact exec_setContrast_lost hk level
  | dataByte d => exact exec_drawnAgain rfl (deliver_lost s.wires .data d s.rx hk)
  | i2cAddress a =>
    obtain ⟨hb, ha⟩ := haddr a rfl
    exact exec_drawnAgain rfl (i2cStart_lost (r := s.rx) hk hb (ha.imp_left selectsPanel_addrByte))
  | ctlOneCmd | ctlDataStream | ctlCmdStream | ctlOneData =>
    exact exec_drawnAgain rfl (i2cByte_lost (r := s.rx) hk (hctl (by simp)) _)

/-- Settles O46: a unit that the panel receives leaves its standing alone and draws its fields. -/
theorem lostPanelStaysLost : Obligations.LostPanelStaysLost := by
  unfold Obligations.LostPanelStaysLost
  intro i s hi hk haddr hctl
  obtain ⟨r, hexec, hrefused, hstanding, hdraws, hdrawn⟩ := exec_lost hi hk haddr hctl
  exact ⟨_, hexec, hrefused, hstanding, hdraws, hdrawn⟩

/-! ## The pulse on the reset line -/

/-- A wait of 20 ms or more is as good as one of 20 ms (rule R249). -/
theorem onWait_long (w : Wires) {ms : Nat} (h : 20 ≤ ms) (r : Rx) : onWait w ms r = onWait w 20 r := by
  rw [onWait, onWait, if_pos (show resetWait ≤ ms from h), if_pos (show resetWait ≤ 20 from Nat.le_refl 20)]

/-- A pulse of less than 20 ms leaves the panel undefined, if it is still modelled (rule R249; log 15). -/
theorem short_pulse_standing {r : Rx} (hp : r.panel.phase = .idle) (w : Wires) {low high : Nat} (hlow : low < 20)
    (hhigh : 20 ≤ high) :
    (onWait w high (onResPin w true (onWait w low (onResPin w false r)))).panel.standing = r.panel.standing.lost := by
  rw [onResPin_low (by simp [hp]), onWait_short w hlow, onWait_long w hhigh]
  rfl

/-- A pulse of 20 ms or more, and 20 ms after it, reset the panel (rule R249). -/
theorem long_pulse {r : Rx} (hp : r.panel.phase = .idle) (w : Wires) {low high : Nat} (hlow : 20 ≤ low)
    (hhigh : 20 ≤ high) : onWait w high (onResPin w true (onWait w low (onResPin w false r))) =
      (r.onPanel (Panel.setPhase .risen)).panelReset w := by
  rw [onWait_long w hlow, onWait_long w hhigh, onWait_onResPin_pulse (by simp [hp])]

/-- A panel that is still modelled, or undefined already, is undefined when it is lost (rule R252). -/
theorem lost_of_ne_abandoned {s : Standing} (h : s ≠ .abandoned) : s.lost = .undefined := by
  cases s with
  | abandoned => exact absurd rfl h
  | inReset | ordinary | undefined => rfl

/-- Settles O47: the low level's wait decides whether the pulse resets the panel. -/
theorem resPulseResetsThePanel : Obligations.ResPulseResetsThePanel := by
  unfold Obligations.ResPulseResetsThePanel
  intro w r low high hp hhigh
  obtain ⟨hrefused, hreset, habandoned⟩ := panelReset_spec w (r.onPanel (Panel.setPhase .risen))
  refine ⟨fun hs => ?_, fun hs hlow => ?_, fun hs hlow => ?_⟩
  · obtain hlow | hlow := Nat.lt_or_ge low 20
    · rw [short_pulse_standing hp w hlow hhigh, hs]
      rfl
    · rw [long_pulse hp w hlow hhigh]
      exact (habandoned hs).1
  · rw [long_pulse hp w hlow hhigh]
    exact ⟨hreset hs, hrefused⟩
  · rw [short_pulse_standing hp w hlow hhigh, lost_of_ne_abandoned hs]

end Sys2Proof.Machine

/-! What reaches the panel through an operation as a whole: its command bytes in order, and after SHOW the visible image
(rules R141, R181 to R185, R189, R230, R238, R250). -/

namespace Sys2Proof.Machine

/-! ## Command calls in sequence -/

/-- Between two transfers the frame handler is dropped, which makes no difference to the bytes of the second (rules
R233, R234). -/
theorem settledRx_deliver {w : Wires} {r : Rx} (hk : r.panel.standing.known = true) (hd : duringReset w r = false)
    (c : Cfg) (k : Kind) (b : Byte) : settledRx c (deliver w k b (settledRx c r)) = settledRx c (deliver w k b r) := by
  unfold settledRx
  cases c.bus with
  | spi => rfl
  | i2c =>
    have hstop : i2cStop r = r.onPanel (Panel.setFh .dropped) := if_pos hk
    dsimp only
    rw [hstop, deliver_setFh w k b r .dropped hk hd, i2cStop_withFh]

/-- Two command calls to a panel that listens and does not refuse the first byte deliver both bytes. -/
theorem Attends.cmd_cmd {s : State} {b b' : Byte} (h : Attends s [.cmd b, .cmd b'])
    (hk : (deliverCmd s.wires b s.rx).panel.standing.known = true) :
    (runCalls [.cmd b, .cmd b'] s).rx = settledRx s.cfg (deliverCmd s.wires b' (deliverCmd s.wires b s.rx)) := by
  obtain ⟨hrx, hwires⟩ := runCall_cmd s b h.supported h.hears h.wired (answersOk_runCall h.answers).1
  have hpanel : (runCall s (.cmd b)).panel = settled s.cfg (deliverCmd s.wires b s.rx).panel := by
    rw [settledRx_eq] at hrx
    exact congrArg Rx.panel hrx
  have hnext : Attends (runCall s (.cmd b)) [.cmd b'] := by
    refine h.next hwires ?_ ?_
    · rwa [hpanel, settled_standing]
    · rw [hpanel, settled_phase]
      exact deliver_phase s.wires .cmd b s.rx
  have hsecond := (runCall_cmd _ b' hnext.supported hnext.hears hnext.wired (answersOk_runCall hnext.answers).1).1
  have hboard : SameBoard s.wires (runCall s (.cmd b)).wires := hwires ▸ wiresAfter_board .lo s.wires
  have hidle : duringReset s.wires (deliverCmd s.wires b s.rx) = false :=
    (deliver_during s.wires .cmd b s.rx).trans h.hears.2
  calc (runCalls [.cmd b, .cmd b'] s).rx
    _ = settledRx s.cfg (deliver (runCall s (.cmd b)).wires .cmd b' (settledRx s.cfg (deliverCmd s.wires b s.rx))) := by
      rw [← hrx, ← (runCall_frame s (.cmd b)).cfg]
      exact hsecond
    _ = settledRx s.cfg (deliverCmd s.wires b' (deliverCmd s.wires b s.rx)) := by
      rw [deliver_congr hboard, settledRx_deliver hk hidle]
      rfl

/-- The first byte of CONTRAST is never refused: it is a command, or the awaited value (rules R98, R241). -/
theorem deliverCmd_contrastFirst_known {s : State} (hh : s.hears) :
    (deliverCmd s.wires 0x81 s.rx).panel.standing.known = true := by
  cases hp : s.panel.cpend with
  | true => rw [deliverCmd_awaited hh hp]; rfl
  | false => rw [deliverCmd_contrastFirst hh hp]; rfl

/-! ## Operations that send commands -/

/-- An operation that only sends commands, one or the two of CONTRAST, with an operand that is legal in `s`. -/
structure CommandOp (i : Instr) (s : State) : Prop where
  isHostOp : isHostOp i = true
  ne_init : i ≠ .init
  legal : operandLegal i s = true
  calls : (∃ c, opCalls i s = [c].map .cmd) ∨ ∃ level, opCalls i s = [0x81, level].map .cmd

theorem commandOp_of_list {i : Instr} (s : State) (h : i = .poweron ∨ i = .poweroff ∨ (∃ v, i = .sleep v) ∨
    (∃ v, i = .contrast v) ∨ i = .invert 0 ∨ i = .invert 1 ∨ (∃ c, i = .writeCmd c)) : CommandOp i s := by
  obtain rfl | rfl | ⟨v, rfl⟩ | ⟨v, rfl⟩ | rfl | rfl | ⟨c, rfl⟩ := h
  · exact ⟨rfl, nofun, rfl, .inl ⟨_, rfl⟩⟩
  · exact ⟨rfl, nofun, rfl, .inl ⟨_, rfl⟩⟩
  · exact ⟨rfl, nofun, rfl, .inl ⟨_, rfl⟩⟩
  · exact ⟨rfl, nofun, rfl, .inr ⟨_, rfl⟩⟩
  · exact ⟨rfl, nofun, rfl, .inl ⟨_, rfl⟩⟩
  · exact ⟨rfl, nofun, rfl, .inl ⟨_, rfl⟩⟩
  · exact ⟨rfl, nofun, rfl, .inl ⟨_, rfl⟩⟩

theorem map_cmd_injective : Function.Injective (List.map TransportCall.cmd) :=
  List.map_injective_iff.2 fun _ _ => TransportCall.cmd.inj

/-- The calls of a command operation deliver their bytes in order to a panel that listens. -/
theorem CommandOp.runCalls_rx {i : Instr} {s : State} (h : CommandOp i s) {bytes : List Byte}
    (hc : opCalls i s = bytes.map .cmd) (hl : s.panelListens) (hok : s.answersOk (busLoad s.cfg (opCalls i s)))
    (w : HopWord) : (runCalls (opCalls i s) (beginOp w (opCalls i s) s)).rx =
      settledRx s.cfg (bytes.foldl (fun r b => deliverCmd s.wires b r) s.rx) := by
  have hattends : Attends (beginOp w (opCalls i s) s) (opCalls i s) := hl.attends hok w
  obtain ⟨c, hone⟩ | ⟨level, htwo⟩ := h.calls
  · obtain rfl := map_cmd_injective (hc.symm.trans hone)
    rw [hone] at hattends ⊢
    exact (runCall_cmd _ c hattends.supported hattends.hears hattends.wired (answersOk_runCall hattends.answers).1).1
  · obtain rfl := map_cmd_injective (hc.symm.trans htwo)
    rw [htwo] at hattends ⊢
    exact hattends.cmd_cmd (deliverCmd_contrastFirst_known hl.hears)

/-- Settles O19: the calls of the operation deliver its bytes, and its completion does not touch the panel. -/
theorem commandBytesReachThePanel : Obligations.CommandBytesReachThePanel := by
  unfold Obligations.CommandBytesReachThePanel
  intro i s bytes hi hc ha hl hok
  have hop := commandOp_of_list s hi
  have hrx : (ended i s).rx =
      settledRx s.cfg (bytes.foldl (fun r b => deliverCmd s.wires b r) s.rx) := by
    rw [ended, begun_of_ne_init hop.ne_init]
    exact hop.runCalls_rx hc hl hok (opWord i)
  rw [settledRx_eq] at hrx
  exact ⟨_, exec_ended hop.isHostOp ha hop.legal hok, congrArg Rx.panel hrx, congrArg Rx.refused hrx⟩

/-! ## The visible image -/

theorem settled_lit (c : Cfg) (p : Panel) : (settled c p).lit = p.lit := by
  obtain h | h := settled_cases c p <;> rw [h]

theorem settled_inverted (c : Cfg) (p : Panel) : (settled c p).inverted = p.inverted := by
  obtain h | h := settled_cases c p <;> rw [h]

/-- A row of the image lies in a page of it (rules R61, R300). -/
theorem page_of_row {c : Cfg} (h : constructionCause c = none) {y : Nat} (hy : y < c.H) : y / 8 < c.PAGES := by
  rw [height_eq h] at hy
  omega

/-- A place of the image whose page is shown (rules R61, R250). -/
theorem lit_of_pageShown {s : State} {p : Panel} {x y : Nat} (h : pageShown s p (y / 8)) (hx : x < s.cfg.W) :
    lit p x y = (p.lit && (pixel s x y ^^ p.inverted)) := by
  have hbyte : pramByte p (y / 8) (x + colOffset) = fbByte s (pixelIndex s.cfg x y) := h x hx
  rw [lit, hbyte]
  rfl

/-- Settles O26: SHOW has put every page in the display memory, and left the panel's mode as it was. -/
theorem showMakesTheImageVisible : Obligations.ShowMakesTheImageVisible := by
  unfold Obligations.ShowMakesTheImageVisible
  intro s ha hc hl hp hf hok
  obtain ⟨t, hexec, -, hrx, hshown, -⟩ := showFillsThePanelMemory s ha hc hl hp hf hok
  have hlit : t.panel.lit = s.panel.lit := (congrArg (·.panel.lit) hrx).trans (settled_lit ..)
  have hinverted : t.panel.inverted = s.panel.inverted :=
    (congrArg (·.panel.inverted) hrx).trans (settled_inverted ..)
  refine ⟨t, hexec, fun x y hx hy => ?_⟩
  rw [lit_of_pageShown (hshown _ (page_of_row hc hy)) hx, hlit, hinverted]

end Sys2Proof.Machine

/-! A cycle whose bus action fails, as a step of the machine: what it leaves in the block, and what the panel has
received (rules R191, R252, R273, R274). -/

namespace Sys2Proof.Machine

/-! ## What the failed action leaves -/

/-- A listed answer draws no free value (rule R272; log 9). -/
theorem takeAnswer_rx {s : State} {r : BusAnswer} {rest : List BusAnswer} (h : s.answers = r :: rest) :
    (takeAnswer s).rx = s.rx := by
  simp only [takeAnswer, h]
  rfl

theorem takeAnswer_wires (s : State) : (takeAnswer s).wires = s.wires := by simp [State.wires]

theorem unsupported_takeAnswer (s : State) : unsupported (takeAnswer s) = unsupported s := by
  simp [unsupported, curOp]

/-- `SPI_MODE` changes only at an `SPI_CFG` (rule R66). -/
theorem performFailed_spiMode {a : BusAction} (h : ∀ m, a ≠ .spiCfg m) (n : Nat) (s : State) :
    (performFailed a n s).spiMode = s.spiMode := by
  cases a with
  | spiCfg m => exact absurd rfl (h m)
  | pin _ _ | wait _ | i2cTxn _ | spiXfer _ => rfl

/-! ## What the panel has received -/

/-- A failed I2C transaction brings its first bytes to the panel (rule R274). -/
theorem performFailed_i2cTxn_rx {s : State} (hu : unsupported s = false) (l : List Byte) (n : Nat) :
    (performFailed (.i2cTxn l) n s).rx = i2cTransaction s.wires (l.take n) s.rx :=
  if_neg (ne_true_of_eq_false hu)

/-- A failed SPI transfer brings its first bytes to the panel (rule R274). -/
theorem performFailed_spiXfer_rx {s : State} (hu : unsupported s = false) (l : List Byte) (n : Nat) :
    (performFailed (.spiXfer l) n s).rx = spiTransfer s.wires (l.take n) s.rx :=
  if_neg (ne_true_of_eq_false hu)

/-- A failed `SPI_CFG` brings nothing to the panel; the draw is that of `SPI_MODE` (rule R274; log 10). -/
theorem performFailed_spiCfg_rx {s : State} (hu : unsupported s = false) (m : SpiMode) (n : Nat) :
    (performFailed (.spiCfg m) n s).rx = { s.rx with draws := s.draws + 1 } :=
  if_neg (ne_true_of_eq_false hu)

/-- A failed bus action that leaves the panel undefined draws every field afresh (rules R191, R252; log 14). -/
theorem performFailed_redrawn {s : State} (hu : unsupported s = true) (a : BusAction) (n : Nat) :
    Redrawn s (performFailed a n s) := by
  cases a with
  | spiCfg m =>
    exact redrawn_of_undefine (r := { s.rx with draws := s.draws + 1 }) rfl rfl (Nat.le_succ _) (if_pos hu)
  | pin _ _ | wait _ | i2cTxn _ | spiXfer _ =>
    exact redrawn_of_undefine (r := s.rx) rfl rfl (Nat.le_refl _) (if_pos hu)

/-! ## The step -/

/-- A step of a busy block whose bus action fails (rule R273). -/
theorem step_fails {s : State} {call : TransportCall} {a : BusAction} {c : Cause} {n : Nat} (hb : s.busy = true)
    (hc : s.tcl[s.tpc]? = some call) (ha : (expansion s call)[s.bpc]? = some a) (hall : a.allows c = true)
    (herr : nextAnswer s = .err c n) : step s = .next (abort c (performFailed a n (takeAnswer s))) := by
  rw [step_of_goes (if_pos hb), seqStep_fails hc ha hall herr]

/-- Settles O31: the step takes the answer, performs the failed action, and aborts. -/
theorem failedActionAborts : Obligations.FailedActionAborts := by
  unfold Obligations.FailedActionAborts
  intro s call a c n rest hb hc ha hans hall
  have hfr := (takeAnswer_frame s).trans (performFailed_frame a n (takeAnswer s))
  have hrx := takeAnswer_rx hans
  have hwires := takeAnswer_wires s
  have herr : nextAnswer s = .err c n := by simp only [nextAnswer, hans]
  have hlines := performFailed_lines (fallible_of_allows hall) n (takeAnswer s)
  rw [takeAnswer_lineRes, takeAnswer_lineDc, takeAnswer_lineCs] at hlines
  obtain ⟨hres, hdc, hcs⟩ := hlines
  refine ⟨_, step_fails hb hc ha hall herr, rfl, ?hstat, hfr.tpc, hfr.bpc, hfr.cur, hfr.tcl,
    ?trace, ?answers, hfr.fb, hfr.hres, hfr.lifecycle, hfr.initDone, hfr.call.sameHost, hres, hdc, hcs,
    fun hcfg => (performFailed_spiMode hcfg n _).trans (takeAnswer_spiMode s), ?cfg, ?txn, ?xfer, fun hu => ?undefined⟩
  case hstat =>
    rw [abort_hstat, curOp, hfr.cur, hfr.tpc]
    cases c <;> rfl
  case trace => rw [abort_trace, performFailed_trace, takeAnswer_trace]
  case answers => rw [abort_answers, performFailed_answers, takeAnswer_answers, hans, List.tail_cons]
  case cfg =>
    rintro ⟨m, rfl⟩ hu
    have hleft := performFailed_spiCfg_rx ((unsupported_takeAnswer s).trans hu) m n
    rw [hrx] at hleft
    exact ⟨congrArg Rx.panel hleft, congrArg Rx.refused hleft⟩
  case txn =>
    rintro l rfl hu
    have hleft := performFailed_i2cTxn_rx ((unsupported_takeAnswer s).trans hu) l n
    rwa [hrx, hwires] at hleft
  case xfer =>
    rintro l rfl hu
    have hleft := performFailed_spiXfer_rx ((unsupported_takeAnswer s).trans hu) l n
    rwa [hrx, hwires] at hleft
  case undefined =>
    obtain ⟨-, hrefused, hlost, hdraws, hdrawn⟩ :=
      performFailed_redrawn ((unsupported_takeAnswer s).trans hu) a n
    rw [takeAnswer_refused] at hrefused
    rw [takeAnswer_cfg] at hdrawn
    exact ⟨hrefused, hlost, (takeAnswer_draws_le s).trans_lt hdraws, hdrawn⟩

end Sys2Proof.Machine

/-! The checks of construction in their order, and a submit that finds the block busy (rules R6, R7, R270, R300,
R310). -/

namespace Sys2Proof.Machine

/-! ## A submit while `BUSY = 1` -/

/-- Settles O56: a host operation raises its fault before anything else, and a busy block's step is one cycle. -/
theorem noSubmitWhileBusy : Obligations.NoSubmitWhileBusy := by
  unfold Obligations.NoSubmitWhileBusy
  intro i s hi hb
  refine ⟨?_, _, step_of_goes (if_pos hb), (seqStep_frame s).inputs⟩
  rw [exec_hostOp i s hi]
  exact if_pos hb

/-! ## The checks of construction -/

/-- The parameters describe a block (rules R6, R7). -/
theorem legalParams_iff (c : Cfg) (p : OpenParams) : legalParams c p = true ↔
    (c.bus = .spi → 0 < c.spiBaud) ∧ (c.bus = .i2c → c.hasCs = false) ∧ c.width ≤ p.maxData := by
  have hwidth : c.W ≤ p.maxData ↔ c.width ≤ p.maxData := Int.toNat_le
  cases hb : c.bus <;> simp [legalParams, hb, hwidth]

/-- A construction that fails a check (rules R270, R300). -/
theorem construct_failed {c : Cfg} {cause : BitVec 2} (h : constructionCause c = some cause) (p : OpenParams)
    (u : PowerUp) :
    (construct c p u).hstat = mkHstat kindConstruction cause 0 0 ∧ (construct c p u).dead = true := by
  simp [construct, constructionHstat, h]

/-- A construction that passes the checks (rules R300, R301). -/
theorem construct_passed {c : Cfg} (h : constructionCause c = none) (p : OpenParams) (u : PowerUp) :
    (construct c p u).hstat = mkHstat kindOk 0 0 0 ∧ (construct c p u).dead = !legalParams c p := by
  simp [construct, constructionHstat, h]

/-- Parameters that describe no block are refused, whatever the checks say (log 23). -/
theorem construct_illegal {c : Cfg} {p : OpenParams} (h : legalParams c p = false) (u : PowerUp) :
    (construct c p u).refused = true ∧ (construct c p u).dead = true := by
  simp [construct, h]

/-- The checks in their order: each finds what the ones before it have let through (rule R300). -/
theorem constructionCause_cases (c : Cfg) :
    (c.width ≤ 0 → constructionCause c = some 0) ∧
    (0 < c.width → c.height ≤ 0 ∨ c.height % 8 ≠ 0 → constructionCause c = some 1) ∧
    (0 < c.width → 0 < c.height → c.height % 8 = 0 → 16 < c.height / 8 → constructionCause c = some 2) ∧
    (0 < c.width → 0 < c.height → c.height % 8 = 0 → c.height / 8 ≤ 16 →
      (c.bus = .i2c → 0x7F < c.i2cAddr → constructionCause c = some 3) ∧
      (c.bus = .spi ∨ c.i2cAddr ≤ 0x7F → constructionCause c = none)) := by
  unfold constructionCause
  refine ⟨fun hw => if_pos hw, fun hw hh => ?_, fun hw hpos hmod hbig => ?_, fun hw hpos hmod hpages => ?_⟩ <;>
    rw [if_neg (by omega)]
  · exact if_pos hh
  · rw [if_neg (by omega), if_pos hbig]
  · rw [if_neg (by omega), if_neg (by omega)]
    refine ⟨fun hb ha => if_pos ⟨hb, ha⟩, fun h => if_neg ?_⟩
    rintro ⟨hb, ha⟩
    obtain h | h := h
    · cases hb.symm.trans h
    · omega

/-- Settles O8: the check that fails first gives the `HSTAT`; parameters that describe no block are refused beside
it. -/
theorem constructionChecksInOrder : Obligations.ConstructionChecksInOrder := by
  unfold Obligations.ConstructionChecksInOrder
  intro c p u
  obtain ⟨hwidth, hheight, hpages, hlast⟩ := constructionCause_cases c
  refine ⟨fun hw => construct_failed (hwidth hw) p u, fun hw hh => construct_failed (hheight hw hh) p u,
    fun hw hpos hmod hbig => construct_failed (hpages hw hpos hmod hbig) p u, fun hw hpos hmod hle => ?_,
    fun hno => construct_illegal ?_ u⟩
  · obtain ⟨haddr, hnone⟩ := hlast hw hpos hmod hle
    refine ⟨fun hb ha => construct_failed (haddr hb ha) p u, fun h => ?_⟩
    obtain ⟨hstat, hdead⟩ := construct_passed (hnone h) p u
    refine ⟨hstat, fun hbaud hcs hdata => ?_⟩
    have hlegal := (legalParams_iff c p).2 ⟨hbaud, hcs, hdata⟩
    rw [hdead, hlegal]
    exact ⟨rfl, congrArg not hlegal⟩
  · rw [← Bool.not_eq_true, legalParams_iff]
    rintro ⟨hbaud, hcs, hdata⟩
    obtain ⟨hb, h0⟩ | ⟨hb, h1⟩ | hlong := hno
    · have := hbaud hb
      omega
    · cases (hcs hb).symm.trans h1
    · omega

end Sys2Proof.Machine

/-! A CMD or DATA call that fails: how much of its payload has reached a panel that listens, on either transport (rules
R143, R156, R233, R236, R273, R274). -/

namespace Sys2Proof.Machine

/-! ## The payload of a call -/

/-- A call that sends the bytes `l` to the panel, as bytes of kind `k` (rules R143, R238). -/
inductive Carries (s : State) : TransportCall → Kind → List Byte → Prop
  | cmd (c : Byte) : Carries s (.cmd c) .cmd [c]
  | data (l : List Byte) : Carries s (.data l) .data l
  | dataFb (p : Nat) : Carries s (.dataFb p) .data (pageBytes s p)

/-- The control byte in front of bytes of kind `k` (rule R100). -/
def controlOf (k : Kind) : Byte :=
  match k with
  | .cmd => ctlOneCmdByte
  | .data => ctlDataStreamByte

/-- The level of D/C for bytes of kind `k`: high for data (rules R151 to R154). -/
def dcOf (k : Kind) : Bool :=
  match k with
  | .cmd => false
  | .data => true

/-- What a transfer on SPI does before its bytes: it configures the bus, and selects the panel if there is a CS line
(rules R150, R151). -/
def spiSelect (c : Cfg) (dc : Bool) : List BusAction :=
  if c.hasCs then selectActions c dc else [.spiCfg (blockMode c), .pin .dc dc]

/-- The bytes `l` delivered in order (rule R238). -/
def deliverList (w : Wires) (k : Kind) (l : List Byte) (r : Rx) : Rx := l.foldl (fun r b => deliver w k b r) r

/-- A place where a call with the payload `l` can fail: the bus actions before the failing one, and that one (rules R66,
R143). -/
inductive FailPoint (c : Cfg) (k : Kind) (l : List Byte) : List BusAction → BusAction → Prop
  | txn : c.bus = .i2c → FailPoint c k l [] (.i2cTxn ([cfgAddrByte c, controlOf k] ++ l))
  | config : c.bus = .spi → FailPoint c k l [] (.spiCfg (blockMode c))
  | xfer : c.bus = .spi → FailPoint c k l (spiSelect c (dcOf k)) (.spiXfer l)

/-- How much of the payload a failing action brings to the panel with its first `n` bytes: an address and a control byte
are no payload (rules R231, R274). -/
def payloadLength (a : BusAction) (n : Nat) : Nat :=
  match a with
  | .i2cTxn _ => n - 2
  | .spiXfer _ => n
  | .pin _ _ | .wait _ | .spiCfg _ => 0

theorem spiActions_eq (c : Cfg) (dc : Bool) (l : List Byte) :
    spiActions c dc l = spiSelect c dc ++ .spiXfer l :: (if c.hasCs then [.pin .cs true] else []) := by
  unfold spiSelect
  cases hc : c.hasCs with
  | true => exact spiActions_cs hc dc l
  | false => exact spiActions_noCs hc dc l

theorem Carries.expansion_i2c {s : State} {call : TransportCall} {k : Kind} {l : List Byte} (h : Carries s call k l)
    (hb : s.cfg.bus = .i2c) : expansion s call = [.i2cTxn ([cfgAddrByte s.cfg, controlOf k] ++ l)] := by
  cases h with
  | cmd c => exact expansion_cmd_i2c hb c
  | data l => exact expansion_data_i2c hb l
  | dataFb p => exact expansion_data_i2c hb (pageBytes s p)

theorem Carries.expansion_spi {s : State} {call : TransportCall} {k : Kind} {l : List Byte} (h : Carries s call k l)
    (hb : s.cfg.bus = .spi) : expansion s call = spiActions s.cfg (dcOf k) l := by
  cases h with
  | cmd c => exact expansion_cmd_spi hb c
  | data l => exact expansion_data_spi hb l
  | dataFb p => exact expansion_data_spi hb (pageBytes s p)

/-- A command call carries one byte (rule R145). -/
theorem Carries.length_le {s : State} {call : TransportCall} {k : Kind} {l : List Byte} (h : Carries s call k l)
    (hk : k = .cmd) : l.length ≤ 1 := by
  cases h with
  | cmd c => exact Nat.le_refl 1
  | data _ | dataFb _ => cases hk

/-- The failing action stands in the expansion of the call. -/
theorem FailPoint.expansion {s : State} {call : TransportCall} {k : Kind} {l : List Byte} {acts : List BusAction}
    {a : BusAction} (h : FailPoint s.cfg k l acts a) (hc : Carries s call k l) :
    ∃ more, expansion s call = acts ++ a :: more := by
  cases h with
  | txn hb => exact ⟨[], hc.expansion_i2c hb⟩
  | config hb =>
    rw [hc.expansion_spi hb, spiActions_eq, spiSelect]
    split
    · exact ⟨_, rfl⟩
    · exact ⟨_, rfl⟩
  | xfer hb =>
    rw [hc.expansion_spi hb, spiActions_eq]
    exact ⟨_, rfl⟩

/-! ## Up to the failing action -/

theorem spiSelect_quiet {c : Cfg} {dc : Bool} {a : BusAction} (h : a ∈ spiSelect c dc) : Quiet a := by
  have hall : ∀ a ∈ selectActions c dc, Quiet a := by
    simp [selectActions, quiet_spiCfg, quiet_cs, quiet_dc]
  refine hall a ?_
  unfold spiSelect at h
  split at h
  · exact h
  · simp only [selectActions, List.mem_cons, List.not_mem_nil, or_false] at h ⊢
    tauto

theorem spiSelect_fallible (c : Cfg) (dc : Bool) : fallibleCount (spiSelect c dc) = 1 := by
  unfold spiSelect
  split <;> rfl

/-- The answer for the first of several bus actions. -/
theorem answersOk_first {s : State} {a : BusAction} {acts : List BusAction} (hf : a.fallible = true)
    (h : s.answersOk (fallibleCount (a :: acts))) : s.answersOk 1 := by
  rw [fallibleCount, List.countP_cons, if_pos hf, Nat.add_comm] at h
  exact (answersOk_add h).1

/-- Bus actions that the panel takes no notice of. -/
theorem succeedAll_quiet {acts : List BusAction} {s : State} (hq : ∀ a ∈ acts, Quiet a) (hs : supported s)
    (hk : s.panel.standing ≠ .undefined) (ha : s.answersOk (fallibleCount acts)) :
    (succeedAll acts s).rx = s.rx := by
  induction acts generalizing s with
  | nil => rfl
  | cons a acts ih =>
    obtain ⟨hfirst, hrest⟩ := List.forall_mem_cons.1 hq
    have hrx : (succeed s a).rx = s.rx := succeed_quiet a s hs hk hfirst fun hf => answersOk_first hf ha
    have hpanel : (succeed s a).panel = s.panel := congrArg Rx.panel hrx
    have hk' : (succeed s a).panel.standing ≠ .undefined := by rwa [hpanel]
    exact (ih hrest (succeed_supported a s hs) hk' (answersOk_succeed ha)).trans hrx

/-- What a transfer on SPI does before its bytes leaves the lines as they are during the transfer (rules R150, R151). -/
theorem succeedAll_spiSelect_wires (s : State) (dc : Bool) :
    (succeedAll (spiSelect s.cfg dc) s).wires = spiWires (levelOf dc) s.wires := by
  rw [succeedAll_wires, spiSelect]
  have hcs : s.wires.cfg.hasCs = s.cfg.hasCs := rfl
  unfold spiWires
  rw [hcs]
  cases s.cfg.hasCs <;> rfl

/-! ## A transfer cut short -/

/-- The payload behind its control byte, as far as it comes: each byte is delivered, whatever state the frame handler is
left in (rule R233). -/
theorem foldl_payload {w : Wires} {r : Rx} (hk : r.panel.standing.known = true) (hd : duringReset w r = false)
    {k : Kind} {l : List Byte} (hl : k = .cmd → l.length ≤ 1) :
    ∃ f, l.foldl (i2cByte w) (i2cByte w (withFh .ctrl r) (controlOf k)) = withFh f (deliverList w k l r) := by
  cases k with
  | data =>
    refine ⟨.stream .data, ?_⟩
    rw [i2cByte_control (c := .stream .data) hk hd rfl]
    exact foldl_stream (known_ne hk) hd .data l
  | cmd =>
    rw [i2cByte_control (c := .one .cmd) hk hd rfl]
    match l, hl rfl with
    | [], _ => exact ⟨.one .cmd, rfl⟩
    | [b], _ => exact ⟨.ctrl, i2cByte_one hk hd .cmd b⟩

/-- An I2C transaction to a panel that listens, cut after `n` bytes, delivers what is left of its payload (rules R232 to
R234, R274). -/
theorem i2cTransaction_take {w : Wires} {r : Rx} {a : Byte} (hb : w.cfg.bus = .i2c) (hs : selectsPanel w a = true)
    (hk : r.panel.standing.known = true) (hd : duringReset w r = false) {k : Kind} {l : List Byte}
    (hl : k = .cmd → l.length ≤ 1) (n : Nat) :
    i2cTransaction w (([a, controlOf k] ++ l).take n) r = deliverList w k (l.take (n - 2)) r ∨
      i2cTransaction w (([a, controlOf k] ++ l).take n) r = i2cStop (deliverList w k (l.take (n - 2)) r) := by
  have hstart : i2cStart w a r = withFh .ctrl r :=
    (i2cStart_selected w a r hb hs hk hd).trans (withFh_known _ r hk).symm
  match n with
  | 0 => exact .inl rfl
  | 1 =>
    refine .inr ?_
    calc i2cTransaction w [a] r
      _ = i2cStop (withFh .ctrl r) := congrArg i2cStop hstart
      _ = i2cStop r := i2cStop_withFh ..
  | n + 2 =>
    obtain ⟨f, hf⟩ := foldl_payload hk hd (k := k) (l := l.take n)
      fun hc => (List.length_take_le' n l).trans (hl hc)
    refine .inr ?_
    calc i2cTransaction w (a :: controlOf k :: l.take n) r
      _ = i2cStop ((l.take n).foldl (i2cByte w) (i2cByte w (withFh .ctrl r) (controlOf k))) := by rw [← hstart]; rfl
      _ = i2cStop (deliverList w k (l.take n) r) := by rw [hf, i2cStop_withFh]

theorem deliverList_congr {w w' : Wires} (h : SameBoard w w') (k : Kind) (l : List Byte) (r : Rx) :
    deliverList w' k l r = deliverList w k l r := by
  simp only [deliverList, deliver_congr h]

/-- An SPI transfer to a panel that is selected and takes the rate delivers its bytes, of the kind that D/C says (rules
R236, R237). -/
theorem spiTransfer_delivers {s : State} (hb : s.cfg.bus = .spi) (hw : s.wired) (k : Kind) (l : List Byte) (r : Rx) :
    spiTransfer (spiWires (levelOf (dcOf k)) s.wires) l r = deliverList s.wires k l r := by
  have hgarbled := spi_ungarbled s (levelOf (dcOf k)) hb hw
  have hboard : SameBoard s.wires (spiWires (levelOf (dcOf k)) s.wires) := ⟨rfl, rfl, rfl⟩
  rw [← deliverList_congr hboard]
  cases k with
  | cmd =>
    unfold spiTransfer deliverList
    congr 1
    funext r b
    exact spiByte_cmd _ b r (fun h => if_pos h) rfl hgarbled
  | data => exact spiTransfer_data _ l r (fun h => if_pos h) rfl hgarbled

/-! ## What has arrived -/

/-- In `t` the panel is as the deliveries that lead to `r` leave it, the frame handler aside (rules R234, R274). -/
structure Arrived (c : Cfg) (r : Rx) (t : State) : Prop where
  refused : t.refused = r.refused
  panel : t.panel = r.panel ∨ t.panel = settled c r.panel

theorem FailPoint.quiet {c : Cfg} {k : Kind} {l : List Byte} {acts : List BusAction} {a : BusAction}
    (h : FailPoint c k l acts a) : ∀ b ∈ acts, Quiet b := by
  cases h with
  | txn _ | config _ => nofun
  | xfer _ => exact fun _ => spiSelect_quiet

/-- The state in which a call fails, the answer taken, after `acts` have succeeded. -/
def beforeFailure (acts : List BusAction) (s : State) : State := takeAnswer (atBpc (succeedAll acts s) acts.length)

theorem beforeFailure_frame (acts : List BusAction) (s : State) : CallFrame s (beforeFailure acts s) :=
  (succeedAll_frame acts s).call.trans
    ((by constructor <;> rfl : CallFrame _ (atBpc (succeedAll acts s) acts.length)).trans (takeAnswer_frame _).call)

theorem beforeFailure_wires (acts : List BusAction) (s : State) :
    (beforeFailure acts s).wires = (succeedAll acts s).wires :=
  takeAnswer_wires _

/-- Up to the failing action nothing reaches a panel that rule R191 does not make undefined. -/
theorem FailPoint.beforeFailure_rx {s : State} {k : Kind} {l : List Byte} {acts : List BusAction} {a : BusAction}
    {c : Cause} {n : Nat} {left : List BusAnswer} (h : FailPoint s.cfg k l acts a) (hs : supported s)
    (hk : s.panel.standing ≠ .undefined)
    (hans : s.answers = List.replicate (fallibleCount acts) .ok ++ .err c n :: left) :
    (beforeFailure acts s).rx = s.rx ∧ unsupported (beforeFailure acts s) = false := by
  have hfr := beforeFailure_frame acts s
  have hleft : (atBpc (succeedAll acts s) acts.length).answers = .err c n :: left := by
    simp [atBpc, succeedAll_answers, hans]
  have hrx : (beforeFailure acts s).rx = s.rx :=
    (takeAnswer_rx hleft).trans (succeedAll_quiet h.quiet hs hk (by simp [State.answersOk, hans]))
  refine ⟨hrx, unsupported_eq _ ?_ ?_⟩
  · intro hop
    rw [curOp, hfr.cur] at hop
    exact hfr.initDone.trans (hs hop)
  · rwa [show (beforeFailure acts s).panel = s.panel from congrArg Rx.panel hrx]

/-- Of a call that fails, a panel that listens has received the part of the payload that the failed action delivered
(rules R273, R274). -/
theorem FailPoint.arrived {s : State} {k : Kind} {l : List Byte} {acts : List BusAction} {a : BusAction} {c : Cause}
    {n : Nat} {left : List BusAnswer} (h : FailPoint s.cfg k l acts a) (hl : k = .cmd → l.length ≤ 1)
    (hs : supported s) (hh : s.hears) (hw : s.wired)
    (hans : s.answers = List.replicate (fallibleCount acts) .ok ++ .err c n :: left) :
    Arrived s.cfg (deliverList s.wires k (l.take (payloadLength a n)) s.rx) (failedAfter acts a c n s) := by
  obtain ⟨hk, hd⟩ := hh
  obtain ⟨hrx, hu⟩ := h.beforeFailure_rx hs (known_ne hk) hans
  have hwires := beforeFailure_wires acts s
  have harrived {r : Rx} (hr : (performFailed a n (beforeFailure acts s)).rx = r) :
      Arrived s.cfg r (failedAfter acts a c n s) := ⟨congrArg Rx.refused hr, .inl (congrArg Rx.panel hr)⟩
  cases h with
  | txn hb =>
    have hsel : selectsPanel s.wires (cfgAddrByte s.cfg) = true := by
      simpa only [State.wired, hb] using hw
    have hpart := performFailed_i2cTxn_rx hu ([cfgAddrByte s.cfg, controlOf k] ++ l) n
    rw [hrx, hwires] at hpart
    obtain htake | htake := i2cTransaction_take (w := s.wires) (r := s.rx) hb hsel hk hd hl n
    · exact harrived (hpart.trans htake)
    · have hstop (r : Rx) : i2cStop r = r.onPanel (settled s.cfg) := by rw [← settledRx_eq, settledRx, hb]
      have hend := hpart.trans (htake.trans (hstop _))
      have hrefused := congrArg Rx.refused hend
      have hpanel := congrArg Rx.panel hend
      exact ⟨hrefused, .inr hpanel⟩
  | config hb =>
    have hpart := performFailed_spiCfg_rx hu (blockMode s.cfg) n
    rw [hrx] at hpart
    have hrefused := congrArg Rx.refused hpart
    have hpanel := congrArg Rx.panel hpart
    exact ⟨hrefused, .inl hpanel⟩
  | xfer hb =>
    refine harrived ?_
    rw [performFailed_spiXfer_rx hu, hwires, hrx, succeedAll_spiSelect_wires, spiTransfer_delivers hb hw]
    rfl

end Sys2Proof.Machine

/-! An operation that fails at a CMD or DATA call to a panel that listens, and CONTRAST that fails between its two
commands (rules R184, R192, R273, R274, R318). -/

namespace Sys2Proof.Machine

/-! ## The end of an operation that fails -/

theorem hears_of {s t : State} (h : s.hears) (hk : t.panel.standing.known = true)
    (hphase : t.panel.phase = s.panel.phase) (hres : t.lineRes = s.lineRes) : t.hears := by
  obtain ⟨-, hd⟩ := h
  refine ⟨hk, ?_⟩
  simpa only [duringReset, wires_lineRes, rx_panel, hphase, hres] using hd

theorem wired_of {s t : State} (h : s.wired) (hcfg : t.cfg = s.cfg) (hpar : t.par = s.par) : t.wired := by
  simpa only [State.wired, selectsPanel, wires_par, hcfg, hpar] using h

/-- The failing action and those before it do not drive the RES line. -/
theorem FailPoint.lineRes {c : Cfg} {k : Kind} {l : List Byte} {acts : List BusAction} {a : BusAction}
    (h : FailPoint c k l acts a) (lv : Level) : drivenBy acts .res lv = lv := by
  cases h with
  | txn _ | config _ => rfl
  | xfer _ => unfold spiSelect; split <;> rfl

/-- The state in which an operation begins its call behind the calls `before`. -/
def reached (i : Instr) (before : List TransportCall) (s : State) : State := runCalls before (begun i s)

theorem reached_cfg (i : Instr) (before : List TransportCall) (s : State) : (reached i before s).cfg = s.cfg :=
  (runCalls_frame before (begun i s)).cfg.trans (begun_cfg i s)

theorem reached_answers {i : Instr} {s : State} {before : List TransportCall} {n : Nat} {left : List BusAnswer}
    (h : s.answers = List.replicate (busLoad s.cfg before + n) .ok ++ left) :
    (reached i before s).answers = List.replicate n .ok ++ left := by
  rw [reached, runCalls_answers, begun_answers, begun_cfg, h]
  simp [List.drop_append]

/-- The calls of an operation other than INIT up to the first answer that is no success, to a panel that listens. -/
theorem State.panelListens.attends_before {i : Instr} {s : State} {before : List TransportCall} {n : Nat}
    {left : List BusAnswer} (h : s.panelListens) (hne : i ≠ .init)
    (hans : s.answers = List.replicate (busLoad s.cfg before + n) .ok ++ left) : Attends (begun i s) before := by
  obtain ⟨hinit, hears, hwired⟩ := h
  rw [begun_of_ne_init hne]
  refine ⟨fun _ => hinit, hears, hwired, ?_⟩
  change s.answersOk (busLoad s.cfg before)
  simp [State.answersOk, hans, List.take_append, List.take_replicate]

/-- An operation whose call behind `before` fails at `a` after `acts`: what it leaves in the block, and what a panel
that has taken the calls before has received of the failing one (rules R192, R273, R274). -/
theorem exec_fails {i : Instr} {s : State} {before after : List TransportCall} {call : TransportCall} {k : Kind}
    {l : List Byte} {acts : List BusAction} {a : BusAction} {c : Cause} {n : Nat} {left : List BusAnswer}
    (hi : isHostOp i = true) (ha : s.accepts) (ho : operandLegal i s = true)
    (hc : opCalls i s = before ++ call :: after) (hat : Attends (reached i before s) [])
    (hcarries : Carries (reached i before s) call k l) (hp : FailPoint s.cfg k l acts a) (hall : a.allows c = true)
    (hans : s.answers = List.replicate (busLoad s.cfg before + fallibleCount acts) .ok ++ .err c n :: left) :
    ∃ t, exec i s = .next t ∧ FailedAt acts a c (reached i before s) t ∧
      Arrived s.cfg
        (deliverList (reached i before s).wires k (l.take (payloadLength a n)) (reached i before s).rx) t := by
  rw [← reached_cfg i before s] at hp ⊢
  obtain ⟨more, he⟩ := hp.expansion hcarries
  have hrun := runToIdle_fails_at (begun_busy i s) ((begun_tcl i s).trans hc) (begun_tpc i s) (begun_bpc i s) he hall
    (by rw [begun_answers, begun_cfg]; exact hans)
  exact ⟨_, (exec_accepted hi ha ho).trans (congrArg _ hrun), failedAfter_failedAt acts hall n _,
    hp.arrived hcarries.length_le hat.supported hat.hears hat.wired (reached_answers hans)⟩

/-- `HSTAT` after the failure: the cause, the opcode, the number of calls before the failing one (rules R27, R273). -/
theorem FailedAt.hstat_reached {i : Instr} {s t : State} {before : List TransportCall} {acts : List BusAction}
    {a : BusAction} {c : Cause} (h : FailedAt acts a c (reached i before s) t) (hi : isHostOp i = true) :
    t.hstat = mkHstat 2 (causeCode c) (opcodeOf i) before.length := by
  rw [h.hstat, reached, runCalls_curOp, begun_curOp hi, runCalls_tpc, begun_tpc, Nat.zero_add]
  rfl

/-! ## CONTRAST between its commands -/

/-- Where the second command of a CONTRAST fails before its byte arrives (rules R66, R274, R318). -/
theorem failPoint_contrast {c : Cfg} {j n : Nat} {cause : Cause} (level : Byte)
    (h : (c.bus = .i2c ∧ j = 1 ∧ n ≤ 2) ∨ (c.bus = .spi ∧ j = 2 ∧ (cause = .notReady ∨ cause = .other)) ∨
      (c.bus = .spi ∧ j = 3 ∧ n = 0 ∧ cause ≠ .nack)) :
    ∃ acts a, FailPoint c .cmd [level] acts a ∧ a.allows cause = true ∧ payloadLength a n = 0 ∧
      busLoad c [.cmd 0x81] + fallibleCount acts = j := by
  obtain ⟨hb, rfl, hn⟩ | ⟨hb, rfl, hcause⟩ | ⟨hb, rfl, rfl, hcause⟩ := h
  · exact ⟨_, _, .txn hb, rfl, Nat.sub_eq_zero_of_le hn, by simp [busLoad, callLoad, hb, fallibleCount]⟩
  · refine ⟨_, _, .config hb, ?_, rfl, by simp [busLoad, callLoad, hb, fallibleCount]⟩
    obtain rfl | rfl := hcause <;> rfl
  · refine ⟨_, _, .xfer hb, ?_, rfl, by simp [busLoad, callLoad, hb, spiSelect_fallible]⟩
    cases cause with
    | nack => exact absurd rfl hcause
    | timeout | notReady | other => rfl

theorem settled_idem (c : Cfg) (p : Panel) : settled c (settled c p) = settled c p := by
  cases hb : c.bus with
  | spi => simp only [settled, hb]
  | i2c => cases hk : p.standing.known <;> simp [settled, hb, hk]

theorem settled_contrast (c : Cfg) (p : Panel) : (settled c p).contrast = p.contrast := by
  obtain h | h := settled_cases c p <;> rw [h]

/-- A WRITE_CMD without bus error to a panel that awaits a contrast value: its byte is the level (rules R98, R242). -/
theorem exec_writeCmd_awaited {s : State} {c : Byte} (ha : s.accepts) (hl : s.panelListens)
    (hp : s.panel.cpend = true) (hok : s.answersOk (busLoad s.cfg [.cmd c])) :
    ∃ u, exec (.writeCmd c) s = .next u ∧ hstatKind u.hstat = 0 ∧ u.rx = withPanel s (settled s.cfg
      { s.panel with contrast := c, cpend := false, standing := .ordinary }) := by
  refine ⟨_, exec_one_call (i := .writeCmd c) rfl nofun rfl ha rfl hok, hstatKind_mkHstat .., ?_⟩
  rw [afterCall_cmd_rx _ hl hok, deliverCmd_awaited hl.hears hp, settledRx_withPanel]

/-- A CONTRAST whose second command fails before its byte arrives leaves the panel awaiting the level. -/
theorem exec_contrast_split {s : State} {level : Byte} {cause : Cause} {n : Nat} {left : List BusAnswer}
    {acts : List BusAction} {a : BusAction} (ha : s.accepts) (hl : s.panelListens) (hp : s.panel.cpend = false)
    (hfail : FailPoint s.cfg .cmd [level] acts a) (hall : a.allows cause = true) (hnone : payloadLength a n = 0)
    (hans : s.answers =
      List.replicate (busLoad s.cfg [.cmd 0x81] + fallibleCount acts) .ok ++ .err cause n :: left) :
    ∃ t, exec (.contrast level) s = .next t ∧ t.hstat = mkHstat 2 (causeCode cause) 0x05 1 ∧ t.refused = s.refused ∧
      t.panel = settled s.cfg { s.panel with cpend := true, standing := .ordinary } ∧
      t.cfg = s.cfg ∧ t.accepts ∧ t.panelListens ∧ t.answers = left := by
  have hfirst : Attends (begun (.contrast level) s) [.cmd 0x81] := hl.attends_before nofun hans
  have htakes := hfirst.cmd (cmd := .contrastFirst) hp rfl
  obtain ⟨hinit, -, hwired⟩ := hl
  have hpanel : (reached (.contrast level) [.cmd 0x81] s).panel =
      settled s.cfg { s.panel with cpend := true, standing := .ordinary } := htakes.panel
  have hrefused : (reached (.contrast level) [.cmd 0x81] s).refused = s.refused := congrArg Rx.refused htakes.rx
  obtain ⟨t, hexec, hfailed, harrived⟩ := exec_fails (before := [.cmd 0x81]) (after := []) (i := .contrast level) rfl ha
    rfl rfl htakes.attends (.cmd level) hfail hall hans
  rw [hnone] at harrived
  obtain ⟨hrefused', hpanel'⟩ := harrived
  obtain ⟨-, -, -, -, hcfg, hpar, hdead, -⟩ := exec_sameHost hexec
  have hend : t.panel = settled s.cfg { s.panel with cpend := true, standing := .ordinary } := by
    obtain h | h := hpanel'
    · exact h.trans hpanel
    · rw [h]
      exact (congrArg (settled s.cfg) hpanel).trans (settled_idem ..)
  have hhears : t.hears := hears_of htakes.attends.hears (by rw [hend, settled_standing]; rfl)
    (congrArg Panel.phase (hend.trans hpanel.symm)) (hfailed.lineRes.trans (hfail.lineRes _))
  have hinit' : t.initDone = true :=
    hfailed.initDone.trans ((runCalls_frame [.cmd 0x81] (begun (.contrast level) s)).initDone.trans hinit)
  have hanswers : t.answers = left := by
    rw [hfailed.answers, reached_answers hans]
    simp [List.drop_append]
  have hop : opcodeOf (.contrast level) = 0x05 := opcOf_hopWord 0x05 level
  exact ⟨t, hexec, hop ▸ hfailed.hstat_reached rfl, hrefused'.trans hrefused, hend, hcfg,
    ⟨hfailed.idle, hdead.trans ha.2⟩, ⟨hinit', hhears, wired_of hwired hcfg hpar⟩, hanswers⟩

/-- Settles O34: the first command makes the panel await the level, the second brings no byte, and the next one is the
level. -/
theorem splitContrastTakesTheNextCommand : Obligations.SplitContrastTakesTheNextCommand := by
  unfold Obligations.SplitContrastTakesTheNextCommand
  intro s level c j cause n rest ha hl hp hplace hans
  obtain ⟨acts, a, hfail, hall, hnone, rfl⟩ := failPoint_contrast level hplace
  obtain ⟨t, hexec, hhstat, hrefused, hpanel, hcfg, haccepts, hlistens, hanswers⟩ :=
    exec_contrast_split ha hl hp hfail hall hnone hans
  obtain ⟨u, hexec', hkind, hrx⟩ := exec_writeCmd_awaited (c := c) haccepts hlistens
    (by rw [hpanel, settled_cpend]) (by simp [State.answersOk, hanswers, hcfg])
  have hrefused' : u.refused = t.refused := congrArg Rx.refused hrx
  refine ⟨t, hexec, hhstat, by rw [hpanel, settled_cpend], by rw [hpanel, settled_contrast], hrefused, u, hexec', hkind,
    hrefused'.trans hrefused, ?_⟩
  have hupdate := settled_update (c := s.cfg) (p := { s.panel with cpend := true, standing := .ordinary })
    (f := fun q => { q with contrast := c, cpend := false, standing := .ordinary }) (fun _ _ => rfl) rfl
  refine (congrArg Rx.panel hrx).trans ?_
  rw [hpanel, hcfg]
  exact hupdate

end Sys2Proof.Machine

/-! SHOW in the middle of the image: the pages it has sent, the part of a page, and what it has not reached (rules R186
to R189, R316). -/

namespace Sys2Proof.Machine

/-! ## What leaves the display memory alone -/

/-- From `s` to `t` the display memory is as it was but for `places`, and nothing has been refused. -/
structure RamOutside (places : Nat → Nat → Prop) (s t : State) : Prop where
  pram : ∀ pg col, ¬ places pg col → pramByte t.panel pg col = pramByte s.panel pg col
  refused : t.refused = s.refused

theorem RamOutside.trans {places : Nat → Nat → Prop} {s t u : State} (h : RamOutside places s t)
    (h' : RamOutside places t u) : RamOutside places s u :=
  ⟨fun pg col hout => (h'.pram pg col hout).trans (h.pram pg col hout), h'.refused.trans h.refused⟩

/-- Deliveries that lead to the panel fields `p`, and refuse nothing. -/
theorem Arrived.ramOutside {places : Nat → Nat → Prop} {c : Cfg} {s t : State} {p : Panel}
    (h : Arrived c (withPanel s p) t)
    (hp : ∀ pg col, ¬ places pg col → pramByte p pg col = pramByte s.panel pg col) : RamOutside places s t := by
  refine ⟨fun pg col hout => ?_, h.refused⟩
  rw [← hp pg col hout]
  obtain h | h := h.panel <;> rw [h]
  · rfl
  · exact pramByte_settled c p pg col

theorem Takes.arrived {s : State} {done rest : List TransportCall} {f : Panel → Panel} (h : Takes s done rest f) :
    Arrived s.cfg (withPanel s (f s.panel)) (runCalls done s) := ⟨congrArg Rx.refused h.rx, .inr h.panel⟩

/-- A byte that decodes to a command other than the one that makes the panel await a contrast value. -/
def isPlainCommand (b : Byte) : Prop := ∃ cmd, decodeCommand b = some cmd ∧ cmd ≠ .contrastFirst

theorem obey_cpend {cmd : PanelCmd} (h : cmd ≠ .contrastFirst) (p : Panel) : (p.heard.obey cmd).cpend = p.cpend := by
  cases cmd with
  | contrastFirst => exact absurd rfl h
  | lowCol _ | highCol _ | normInv _ | disp _ | page _ => rfl

/-- No command touches the display memory (rules R241 to R247). -/
theorem pramByte_obey (cmd : PanelCmd) (p : Panel) (pg col : Nat) :
    pramByte (p.heard.obey cmd) pg col = pramByte p pg col := by
  cases cmd <;> rfl

/-- Command calls to a panel that listens leave its display memory alone. -/
theorem Attends.plainCommands {places : Nat → Nat → Prop} {s : State} {bytes : List Byte} {rest : List TransportCall}
    (h : Attends s (bytes.map .cmd ++ rest)) (hp : s.panel.cpend = false) (hb : ∀ b ∈ bytes, isPlainCommand b) :
    Attends (runCalls (bytes.map .cmd) s) rest ∧ (runCalls (bytes.map .cmd) s).panel.cpend = false ∧
      RamOutside places s (runCalls (bytes.map .cmd) s) := by
  induction bytes generalizing s with
  | nil => exact ⟨h, hp, fun _ _ _ => rfl, rfl⟩
  | cons b bytes ih =>
    obtain ⟨⟨cmd, hcmd, hne⟩, hrest⟩ := List.forall_mem_cons.1 hb
    have htakes := Attends.cmd (calls := bytes.map .cmd ++ rest) h hp hcmd
    have hfirst : RamOutside places s (runCall s (.cmd b)) :=
      htakes.arrived.ramOutside fun pg col _ => pramByte_obey cmd s.panel pg col
    obtain ⟨hattends, hcpend, hsame⟩ := ih htakes.attends (htakes.cpend.trans ((obey_cpend hne _).trans hp)) hrest
    exact ⟨hattends, hcpend, hfirst.trans hsame⟩

/-- A command that fails leaves the display memory alone, whether its byte arrives or not. -/
theorem ramOutside_of_command {places : Nat → Nat → Prop} {s t : State} {b : Byte} {n : Nat} (hh : s.hears)
    (hp : s.panel.cpend = false) (hb : isPlainCommand b)
    (h : Arrived s.cfg (deliverList s.wires .cmd ([b].take n) s.rx) t) : RamOutside places s t := by
  obtain ⟨cmd, hcmd, -⟩ := hb
  match n with
  | 0 => exact Arrived.ramOutside (p := s.panel) h fun _ _ _ => rfl
  | n + 1 =>
    have hdeliver : deliverList s.wires .cmd ([b].take (n + 1)) s.rx = withPanel s (s.panel.heard.obey cmd) := by
      rw [List.take_succ_cons, List.take_nil]
      exact deliverCmd_decoded hh hp hcmd
    rw [hdeliver] at h
    exact h.ramOutside fun pg col _ => pramByte_obey cmd s.panel pg col

/-! ## The part of a page -/

/-- The places of page `p` that an image of `w` columns covers (rules R189, R251). -/
def inPage (w p pg col : Nat) : Prop := pg = p ∧ 2 ≤ col ∧ col < w + 2

theorem HasRoom.mono {w : Wires} {r : Rx} {m n : Nat} (h : HasRoom w r n) (hle : m ≤ n) : HasRoom w r m := by
  obtain ⟨hk, hd, hp, hpage, hcols, hbits⟩ := h
  exact ⟨hk, hd, hp, hpage, by omega, by omega⟩

/-- A part of a page's bytes changes the places of that page alone (rules R189, R240). -/
theorem ramOutside_of_page {s t : State} {p n : Nat} (hroom : HasRoom s.wires s.rx s.cfg.W)
    (hpage : s.panel.page.toNat = p) (hcol : s.panel.col.toNat = 2)
    (h : Arrived s.cfg (deliverList s.wires .data ((pageBytes s p).take n) s.rx) t) :
    RamOutside (inPage s.cfg.W p) s t := by
  have hlen : ((pageBytes s p).take n).length ≤ s.cfg.W :=
    (List.length_take_le' n _).trans_eq (length_pageBytes s p)
  have hdeliver : deliverList s.wires .data ((pageBytes s p).take n) s.rx =
      withPanel s (s.panel.storeRow ((pageBytes s p).take n)) := deliverAll_stores (hroom.mono hlen)
  rw [hdeliver] at h
  refine h.ramOutside fun pg col hout => ?_
  rw [pramByte_storeRow, hpage, hcol]
  split
  · refine List.getD_eq_default _ _ ?_
    unfold inPage at hout
    omega
  · rfl

/-- A place where a page sequence can end early: the calls before, which are commands, and the one that fails, a command
or the data of the page (rule R186). -/
inductive PageCut (p : Nat) : List TransportCall → TransportCall → Prop
  | command {bytes : List Byte} {b : Byte} (hb : ∀ b' ∈ b :: bytes, isPlainCommand b') :
      PageCut p (bytes.map .cmd) (.cmd b)
  | data : PageCut p [.cmd (pageCmd p), .cmd lowColCmd, .cmd highColCmd] (.dataFb p)

/-- The commands of a page sequence (rules R96, R186). -/
theorem pageCommands_plain {p : Nat} (h : p < 16) :
    isPlainCommand (pageCmd p) ∧ isPlainCommand lowColCmd ∧ isPlainCommand highColCmd := by
  refine ⟨⟨.page (BitVec.ofNat 4 p), ?_, nofun⟩, ⟨.lowCol 2, rfl, nofun⟩, ⟨.highCol 0, rfl, nofun⟩⟩
  rw [(pageCmd_eq h).2, decodeCommand_pageByte]

/-- Each of the four calls of a page sequence is such a place. -/
theorem pageCalls_cut {p i : Nat} (h16 : p < 16) (hi : i < 4) :
    ∃ before call after, pageCalls p = before ++ call :: after ∧ before.length = i ∧ PageCut p before call := by
  obtain ⟨hpage, hlow, hhigh⟩ := pageCommands_plain h16
  match i, hi with
  | 0, _ => exact ⟨_, _, _, rfl, rfl, .command (bytes := []) (by simpa using hpage)⟩
  | 1, _ => exact ⟨[.cmd (pageCmd p)], _, _, rfl, rfl, .command (bytes := [pageCmd p]) (by simp [hpage, hlow])⟩
  | 2, _ => exact ⟨[.cmd (pageCmd p), .cmd lowColCmd], _, _, rfl, rfl,
      .command (bytes := [pageCmd p, lowColCmd]) (by simp [hpage, hlow, hhigh])⟩
  | 3, _ => exact ⟨[.cmd (pageCmd p), .cmd lowColCmd, .cmd highColCmd], _, _, rfl, rfl, .data⟩

/-- What the failing call of a page sequence carries. -/
theorem PageCut.carries {p : Nat} {before : List TransportCall} {call : TransportCall} (h : PageCut p before call)
    (s : State) : ∃ k l, Carries s call k l := by
  cases h with
  | command _ => exact ⟨_, _, .cmd _⟩
  | data => exact ⟨_, _, .dataFb p⟩

/-- The calls of a page sequence before the failing one leave the panel listening. -/
theorem PageCut.attends {s : State} {p : Nat} {before : List TransportCall} {call : TransportCall}
    (h : PageCut p before call) (hat : Attends s before) (hp : s.panel.cpend = false) (h16 : p < 16) :
    Attends (runCalls before s) [] := by
  cases h with
  | command hb =>
    rw [← List.append_nil (List.map _ _)] at hat
    exact (hat.plainCommands (places := fun _ _ => False) hp (List.forall_mem_cons.1 hb).2).1
  | data => exact (Attends.pageCommands (calls := []) hat hp h16).attends

/-- A page sequence that fails changes the places of its page alone. -/
theorem PageCut.ramOutside {s t : State} {p n : Nat} {before : List TransportCall} {call : TransportCall} {k : Kind}
    {l : List Byte} (h : PageCut p before call) (hat : Attends s before) (hp : s.panel.cpend = false) (hf : s.fits)
    (hlt : p < s.cfg.PAGES) (h16 : p < 16) (hc : Carries (runCalls before s) call k l)
    (harrived : Arrived s.cfg (deliverList (runCalls before s).wires k (l.take n) (runCalls before s).rx) t) :
    RamOutside (inPage s.cfg.W p) s t := by
  rw [← (runCalls_frame before s).cfg] at harrived
  cases h with
  | command hb =>
    obtain ⟨hlast, hbytes⟩ := List.forall_mem_cons.1 hb
    rw [← List.append_nil (List.map _ _)] at hat
    obtain ⟨hattends, hcpend, hsame⟩ := hat.plainCommands hp hbytes
    cases hc
    exact hsame.trans (ramOutside_of_command hattends.hears hcpend hlast harrived)
  | data =>
    have htakes := Attends.pageCommands (calls := []) hat hp h16
    have hpage := congrArg Panel.page htakes.panel
    have hcol := congrArg Panel.col htakes.panel
    rw [settled_page] at hpage
    rw [settled_col] at hcol
    have hcfg := (runCalls_frame [.cmd (pageCmd p), .cmd lowColCmd, .cmd highColCmd] s).cfg
    have hroom := pages_room (fits_runCalls hf _) htakes.attends.hears (htakes.cpend.trans hp) (by rwa [hcfg]) h16 hpage
      hcol
    cases hc
    have hlast := ramOutside_of_page hroom (by rw [hpage]; exact Nat.mod_eq_of_lt h16) (by rw [hcol]; rfl) harrived
    rw [hcfg] at hlast
    exact (htakes.arrived.ramOutside fun _ _ _ => rfl).trans hlast

/-! ## The pages before -/

/-- The sequences of the first pages, none of them maybe, to a panel that listens and has room for the image (rules
R187, R189). -/
theorem Attends.firstPages {s : State} {n : Nat} {rest : List TransportCall} (h : Attends s (pagesCalls n ++ rest))
    (hp : s.panel.cpend = false) (hf : s.fits) (hle : n ≤ s.cfg.PAGES) (h16 : n ≤ 16) :
    Attends (runCalls (pagesCalls n) s) rest ∧ (runCalls (pagesCalls n) s).panel.cpend = false ∧
      (runCalls (pagesCalls n) s).refused = s.refused ∧ ∀ pg col, pramByte (runCalls (pagesCalls n) s).panel pg col =
        pramByte (Panel.takePages (pageBytes s) n s.panel) pg col := by
  cases n with
  | zero => exact ⟨h, hp, rfl, fun _ _ => rfl⟩
  | succ n =>
    have htakes := h.pages hp hf (by omega) (by omega)
    refine ⟨htakes.attends, ?_, congrArg Rx.refused htakes.rx, fun pg col => ?_⟩
    · rw [htakes.cpend, takePages_fields]
      exact hp
    · rw [htakes.panel, pramByte_settled]

/-- The page sequences up to page `m`, its own, and those behind it (rule R187). -/
theorem pagesCalls_split {m n : Nat} (h : m < n) : ∃ after, pagesCalls n = pagesCalls m ++ (pageCalls m ++ after) := by
  induction n, h using Nat.le_induction with
  | base => exact ⟨[], by rw [pagesCalls_succ, List.append_nil]⟩
  | succ n _ ih =>
    obtain ⟨after, hafter⟩ := ih
    exact ⟨after ++ pageCalls n, by rw [pagesCalls_succ, hafter]; simp⟩

/-! ## The failing call -/

theorem busLoad_sends {c : Cfg} {calls : List TransportCall} (h : ∀ call ∈ calls, ∃ dc, SendsAt call dc) :
    busLoad c calls = (if c.bus = .i2c then 1 else 2) * calls.length := by
  induction calls with
  | nil => rfl
  | cons call calls ih =>
    obtain ⟨⟨dc, hcall⟩, hrest⟩ := List.forall_mem_cons.1 h
    have hload : callLoad c call = if c.bus = .i2c then 1 else 2 := by cases hcall <;> rfl
    rw [busLoad_cons, hload, ih hrest, List.length_cons, Nat.mul_succ, Nat.add_comm]

/-- Where a call that sends something fails when `j` fallible actions have succeeded: on SPI at its SPI_CFG if `j` is
even, at its transfer if it is odd (rules R66, R143). -/
theorem failPoint_show {cfg : Cfg} {j : Nat} {c : Cause} (k : Kind) (l : List Byte)
    (hc : cfg.bus = .i2c ∨ c = .notReady ∨ c = .other ∨ (c = .timeout ∧ j % 2 = 1)) :
    ∃ acts a, FailPoint cfg k l acts a ∧ a.allows c = true ∧
      (if cfg.bus = .i2c then 1 else 2) * (if cfg.bus = .i2c then j else j / 2) + fallibleCount acts = j := by
  cases hb : cfg.bus with
  | i2c => exact ⟨_, _, .txn hb, rfl, Nat.one_mul j⟩
  | spi =>
    have hcause : c = .notReady ∨ c = .other ∨ (c = .timeout ∧ j % 2 = 1) := hc.resolve_left (by simp [hb])
    obtain hj | hj := Nat.mod_two_eq_zero_or_one j
    · refine ⟨_, _, .config hb, ?_, ?_⟩
      · obtain rfl | rfl | ⟨-, hodd⟩ := hcause
        · rfl
        · rfl
        · omega
      · change 2 * (j / 2) + 0 = j
        omega
    · refine ⟨_, _, .xfer hb, ?_, ?_⟩
      · obtain rfl | rfl | ⟨rfl, -⟩ := hcause <;> rfl
      · rw [spiSelect_fallible]
        change 2 * (j / 2) + 1 = j
        omega

/-- A SHOW that fails at a call of page `m`: the pages before are in the display memory, and of the other places it has
changed those of page `m` alone. -/
theorem exec_show_fails {s : State} {m n : Nat} {before after : List TransportCall} {call : TransportCall} {c : Cause}
    {acts : List BusAction} {a : BusAction} {left : List BusAnswer} {k : Kind} {l : List Byte} (ha : s.accepts)
    (hl : s.panelListens) (hp : s.panel.cpend = false) (hf : s.fits) (hlt : m < s.cfg.PAGES) (h16 : m < 16)
    (hcut : PageCut m before call) (hcalls : opCalls .showPages s = (pagesCalls m ++ before) ++ call :: after)
    (hcarries : Carries (reached .showPages (pagesCalls m ++ before) s) call k l) (hfail : FailPoint s.cfg k l acts a)
    (hall : a.allows c = true) (hans : s.answers =
      List.replicate (busLoad s.cfg (pagesCalls m ++ before) + fallibleCount acts) .ok ++ .err c n :: left) :
    ∃ t, exec .showPages s = .next t ∧
      FailedAt acts a c (reached .showPages (pagesCalls m ++ before) s) t ∧ t.refused = s.refused ∧
      ∀ pg col, ¬ inPage s.cfg.W m pg col →
        pramByte t.panel pg col = pramByte (Panel.takePages (pageBytes s) m s.panel) pg col := by
  have hbegun : Attends (begun .showPages s) (pagesCalls m ++ before) := hl.attends_before nofun hans
  obtain ⟨hbefore, hcpend, hrefused, hpages⟩ := hbegun.firstPages hp hf hlt.le h16.le
  have hreached : reached .showPages (pagesCalls m ++ before) s =
      runCalls before (reached .showPages (pagesCalls m) s) := runCalls_append ..
  have hattends := hcut.attends hbefore hcpend h16
  obtain ⟨t, hexec, hfailed, harrived⟩ :=
    exec_fails rfl ha rfl hcalls (hreached ▸ hattends) hcarries hfail hall hans
  have hcfg := reached_cfg .showPages (pagesCalls m) s
  rw [hreached, ← hcfg] at harrived
  have hfits := fits_runCalls (s := begun .showPages s) hf (pagesCalls m)
  have hpart := hcut.ramOutside hbefore hcpend hfits (hcfg ▸ hlt) h16 (hreached ▸ hcarries) harrived
  rw [show (runCalls (pagesCalls m) (begun .showPages s)).cfg = s.cfg from hcfg] at hpart
  exact ⟨t, hexec, hfailed, hpart.refused.trans hrefused, fun pg col hout =>
    (hpart.pram pg col hout).trans (hpages pg col)⟩

/-- Settles O35: the pages before the failing one have been sent, and it has changed its own places alone. -/
theorem failedShowLeavesLaterPagesStale : Obligations.FailedShowLeavesLaterPagesStale := by
  unfold Obligations.FailedShowLeavesLaterPagesStale
  intro s j k m c n rest ha hc hl hp hf hk hlt hm hcause hans
  obtain ⟨-, h16⟩ := pages_of_constructed hc
  have hpages : m < s.cfg.PAGES := by omega
  obtain ⟨before, call, after, hpage, hlen, hcut⟩ := pageCalls_cut (p := m) (i := k % 4) (by omega) (by omega)
  obtain ⟨later, hlater⟩ := pagesCalls_split hpages
  have hcalls : opCalls .showPages s = (pagesCalls m ++ before) ++ call :: (after ++ later) := by
    rw [show opCalls .showPages s = pagesCalls s.cfg.PAGES from rfl, hlater, hpage]
    simp
  have hlength : (pagesCalls m ++ before).length = k := by
    rw [List.length_append, length_pagesCalls, hlen]
    omega
  have hsends : ∀ call ∈ pagesCalls m ++ before, ∃ dc, SendsAt call dc := fun call hcall =>
    sendsAt_pagesCalls (n := s.cfg.PAGES) (hcalls ▸ List.mem_append_left _ hcall : call ∈ opCalls .showPages s)
  obtain ⟨kind, l, hcarries⟩ := hcut.carries (reached .showPages (pagesCalls m ++ before) s)
  obtain ⟨acts, a, hfail, hall, hcount⟩ := failPoint_show kind l hcause
  rw [← hk, ← hlength, ← busLoad_sends hsends] at hcount
  rw [← hcount] at hans
  obtain ⟨t, hexec, hfailed, hrefused, hram⟩ :=
    exec_show_fails ha hl hp hf hpages (by omega) hcut hcalls hcarries hfail hall hans
  have hfb : (reached .showPages (pagesCalls m ++ before) s).fb = s.fb := by
    refine (runCalls_fb _ _ fun call hcall => ?_).1
    obtain ⟨dc, hsend⟩ := hsends call hcall
    exact hsend.noFb
  have hhstat := hfailed.hstat_reached rfl
  rw [hlength] at hhstat
  refine ⟨t, hexec, hhstat, hrefused, hfailed.fb.trans hfb, fun p hlt x hx => ?_, fun pg col hout => ?_⟩
  · rw [hram p (x + 2) (fun h => hlt.ne h.1), pramByte_takePages _ (by omega), if_pos (by omega), Nat.add_sub_cancel,
      pageBytes_getD s p hx]
  · rw [hram pg col (by unfold inPage; omega), pramByte_takePages _ (by omega)]
    split
    · exact List.getD_eq_default _ _ (by rw [length_pageBytes]; omega)
    · rfl

end Sys2Proof.Machine

/-! INIT and the panel: one that has been reset is switched on and shows a clear image (rules R122, R190, R249, R250,
R304). -/

namespace Sys2Proof.Machine

/-! ## INIT's calls to the panel -/

/-- The page sequences do not look at the frame handler. -/
theorem takePages_setFh (bytes : Nat → List Byte) (n : Nat) (q : Panel) (f : FhState) :
    Panel.takePages bytes n (q.setFh f) = (Panel.takePages bytes n q).setFh f := by
  induction n with
  | zero => rfl
  | succ n ih =>
    rw [Panel.takePages, ih]
    rfl

/-- The panel after INIT's calls to it: switched on, with the image of the given bytes (rule R304). -/
def Panel.takeInit (bytes : Nat → List Byte) (n : Nat) (q : Panel) : Panel :=
  Panel.takePages bytes n { q with lit := true, standing := .ordinary }

/-- The calls of INIT that send to the panel, to one that listens and has room for the image (rules R190, R304). -/
theorem Attends.initSends {s : State} (h : Attends s (.cmd (dispCmd true) :: showCalls s.cfg))
    (hp : s.panel.cpend = false) (hf : s.fits) (hc : constructionCause s.cfg = none) :
    Takes s (.cmd (dispCmd true) :: showCalls s.cfg) [] (Panel.takeInit (pageBytes s) s.cfg.PAGES) := by
  obtain ⟨hpos, h16⟩ := pages_of_constructed hc
  obtain ⟨n, hn⟩ : ∃ n, s.cfg.PAGES = n + 1 := ⟨s.cfg.PAGES - 1, by omega⟩
  have hshow : showCalls s.cfg = pagesCalls (n + 1) := by rw [← hn]; rfl
  have hlt : n < s.cfg.PAGES := by omega
  rw [hshow, ← List.append_nil (pagesCalls (n + 1))] at h
  have hon := h.cmd (cmd := .disp 1) hp rfl
  have hfr := runCalls_frame [.cmd (dispCmd true)] s
  have hfb := (runCalls_fb [.cmd (dispCmd true)] s (by simp [noFb])).1
  have hpages := hon.attends.pages (hon.cpend.trans hp) (fits_runCalls hf _) (hfr.cfg ▸ hlt) (by omega)
  have hbytes : pageBytes (runCalls [.cmd (dispCmd true)] s) = pageBytes s := funext (pageBytes_congr hfr.cfg hfb)
  rw [hbytes] at hpages
  rw [hshow, hn]
  exact Takes.append (rest := []) hon hpages (takePages_setFh _ _) (takePage_known ..)

/-- The state of an INIT before its first command: the panel has been reset, if there is a line, and the framebuffer
filled (rule R190). -/
def initReady (s : State) : State := reached .init (initFront s.cfg) s

theorem initReady_cfg (s : State) : (initReady s).cfg = s.cfg := reached_cfg ..

theorem initReady_par (s : State) : (initReady s).par = s.par := (runCalls_frame _ _).par.trans (begun_par .init s)

/-- INIT sends a framebuffer of 0 (rule R122). -/
theorem fbByte_initReady (s : State) {i : Nat} (h : i < s.cfg.fbSize) : fbByte (initReady s) i = 0x00 := by
  have hfb := (sent_initFront (begun .init s)).fb
  rw [begun_cfg] at hfb
  rw [initReady, reached, fbByte_congr hfb, fbByte_fillAll _ _ _ (by rwa [begun_cfg])]
  rfl

/-- INIT's last calls are those to the panel, and its completion does not touch the panel. -/
theorem ended_init_rx (s : State) : (ended .init s).rx =
    (runCalls (.cmd (dispCmd true) :: showCalls s.cfg) (initReady s)).rx := by
  rw [initReady, reached, ← runCalls_append, ← initCalls_eq]
  rfl

/-- Up to its first command nothing of INIT but the reset calls touches the panel or the lines. -/
theorem initReady_device (s : State) :
    (initReady s).rx = (runCalls (resetCalls s.cfg) (begun .init s)).rx ∧
      (initReady s).wires = (runCalls (resetCalls s.cfg) (begun .init s)).wires := by
  rw [initReady, reached, initFront, runCalls_append]
  exact ⟨rfl, rfl⟩

theorem initFront_load (c : Cfg) : busLoad c (initFront c) = 0 := by
  have h : busLoad c (initFront c) = busLoad c (resetCalls c) + busLoad c [.fillFb false] := by
    simp [initFront, busLoad]
  rw [h, resetCalls_load]
  rfl

theorem initReady_answersOk {s : State} (h : s.answersOk (busLoad s.cfg (opCalls .init s))) :
    (initReady s).answersOk (busLoad s.cfg (.cmd (dispCmd true) :: showCalls s.cfg)) := by
  have hload : busLoad s.cfg (initCalls s.cfg) = busLoad s.cfg (.cmd (dispCmd true) :: showCalls s.cfg) := by
    rw [initCalls_eq, ← Nat.zero_add (busLoad s.cfg (_ :: _)), ← initFront_load s.cfg]
    simp [busLoad]
  rw [opCalls, hload] at h
  rw [State.answersOk, initReady, reached, runCalls_answers, begun_answers, begun_cfg, initFront_load]
  exact h

/-- The panel takes what INIT sends, if it hears and is wired: INIT is none of the operations of rule R191. -/
theorem initReady_attends {s : State} (hh : (initReady s).hears) (hw : s.wired)
    (hok : s.answersOk (busLoad s.cfg (opCalls .init s))) :
    Attends (initReady s) (.cmd (dispCmd true) :: showCalls (initReady s).cfg) where
  supported := by
    have hop : curOp (initReady s) = 0x08 := (runCalls_curOp ..).trans (begun_curOp (i := .init) rfl s)
    intro h
    rw [hop] at h
    cases h
  hears := hh
  wired := wired_of hw (initReady_cfg s) (initReady_par s)
  answers := by
    rw [initReady_cfg]
    exact initReady_answersOk hok

/-! ## The image that INIT leaves -/

/-- The panel fields `p` are `q`, switched on and with a clear image (rule R304). -/
structure ClearImage (c : Cfg) (q p : Panel) : Prop where
  fields : p = { q with
    pram := p.pram, page := BitVec.ofNat 4 (c.PAGES - 1), col := BitVec.ofNat 8 (c.W + 2), lit := true
    standing := .ordinary }
  inside : ∀ pg x, pg < c.PAGES → x < c.W → pramByte p pg (x + 2) = 0x00
  outside : ∀ pg col, ¬(pg < c.PAGES ∧ 2 ≤ col ∧ col < c.W + 2) → pramByte p pg col = pramByte q pg col

/-- From a framebuffer of 0 the page sequences leave a clear image. -/
theorem clearImage_takeInit {s : State} (hc : constructionCause s.cfg = none)
    (h0 : ∀ i, i < s.cfg.fbSize → fbByte s i = 0x00) (q : Panel) :
    ClearImage s.cfg q (Panel.takeInit (pageBytes s) s.cfg.PAGES q) := by
  obtain ⟨hpos, h16⟩ := pages_of_constructed hc
  obtain ⟨n, hn⟩ : ∃ n, s.cfg.PAGES = n + 1 := ⟨s.cfg.PAGES - 1, by omega⟩
  obtain ⟨hshown, houtside⟩ := pramByte_shown s h16 { q with lit := true, standing := .ordinary }
  refine ⟨?_, fun pg x hpg hx => (hshown pg hpg x hx).trans (h0 _ ?_), houtside⟩
  · rw [Panel.takeInit, hn, takePages_fields, length_pageBytes, Nat.add_sub_cancel, Nat.add_comm s.cfg.W,
      BitVec.ofNat_add]
    rfl
  · simpa [pixelIndex, fbIndex] using pixelIndex_lt (c := s.cfg) (y := 8 * pg) hx (by omega)

/-- INIT to a panel that hears once it is reset, awaits no contrast value and has room for the image (rule R304). -/
theorem ended_init_clear {s : State} (hc : constructionCause s.cfg = none) (hh : (initReady s).hears) (hw : s.wired)
    (hp : (initReady s).panel.cpend = false) (hf : s.fits) (hok : s.answersOk (busLoad s.cfg (opCalls .init s))) :
    ∃ p, (ended .init s).rx = withPanel (initReady s) (settled s.cfg p) ∧ ClearImage s.cfg (initReady s).panel p := by
  have hcfg := initReady_cfg s
  have hpar := initReady_par s
  have hfits : (initReady s).fits := by
    unfold State.fits
    rwa [hcfg, hpar]
  have htakes := (initReady_attends hh hw hok).initSends hp hfits (hcfg ▸ hc)
  have hclear := clearImage_takeInit (s := initReady s) (hcfg ▸ hc)
    (fun i hi => fbByte_initReady s (hcfg ▸ hi)) (initReady s).panel
  have hrx := htakes.rx
  rw [hcfg] at hrx hclear
  exact ⟨_, (ended_init_rx s).trans hrx, hclear⟩

/-! ## With a reset line -/

/-- With a reset line the start of INIT only latches it. -/
theorem begun_init_resetLine {s : State} (hres : s.cfg.hasRes = true) :
    begun .init s = beginOp (opWord .init) (initCalls s.cfg) s := if_pos hres

/-- A panel in `PANEL_RESET` awaits no contrast value, and is in no transaction and in no reset (rule R249). -/
theorem inPanelReset.ready {par : OpenParams} {p : Panel} (h : inPanelReset par p) :
    p.cpend = false ∧ p.fh = .dropped ∧ p.phase = .idle ∧ p.standing = .inReset := by
  obtain ⟨-, -, -, -, -, -, hready⟩ := h
  exact hready

/-- With a reset line a panel that is still modelled is in `PANEL_RESET` before INIT's first command, and no reset is in
progress (rules R180, R249). -/
theorem initReady_reset {s : State} (hres : s.cfg.hasRes = true) (hs : s.panel.standing ≠ .abandoned) :
    (initReady s).refused = s.refused ∧ inPanelReset s.par (initReady s).panel ∧ (initReady s).hears := by
  have hcfg : (begun .init s).cfg = s.cfg := begun_cfg .init s
  have hop : isDeviceOp (curOp (begun .init s)) = false := by rw [begun_curOp (i := .init) rfl]; rfl
  obtain ⟨hrefused, hreset⟩ := runCalls_reset_panel hop (hcfg ▸ hres)
  have hwires := runCalls_reset_wires (begun .init s)
  rw [hcfg] at hrefused hreset hwires
  obtain ⟨hrx, hlines⟩ := initReady_device s
  have hpanel : (initReady s).panel = _ := congrArg Rx.panel hrx
  have hline : (initReady s).lineRes = .hi :=
    (congrArg Wires.lineRes (hlines.trans hwires)).trans (if_pos hres)
  rw [begun_init_resetLine hres] at hrefused hreset hpanel hrx
  have hin : inPanelReset s.par (initReady s).panel := hpanel ▸ hreset hs
  obtain ⟨-, -, hphase, hstanding⟩ := hin.ready
  refine ⟨(congrArg Rx.refused hrx).trans hrefused, hin, ?_, ?_⟩
  · rw [hstanding]
    rfl
  · simp [duringReset, hline, hphase]

/-- An image of 0 on a panel that is on is lit where the panel is inverted (rule R250). -/
theorem ClearImage.lit {c : Cfg} {q p : Panel} (h : ClearImage c q p) (hc : constructionCause c = none) {x y : Nat}
    (hx : x < c.W) (hy : y < c.H) : lit p x y = q.inverted := by
  have hbyte : pramByte p (y / 8) (x + colOffset) = 0x00 := h.inside _ _ (page_of_row hc hy) hx
  have hlit := congrArg Panel.lit h.fields
  have hinv := congrArg Panel.inverted h.fields
  rw [Machine.lit, hbyte, hlit, hinv]
  simp

/-- A frame handler that is dropped stays so at the end of a transfer (rule R234). -/
theorem settled_dropped {p : Panel} (h : p.fh = .dropped) (c : Cfg) : settled c p = p := by
  obtain he | he := settled_cases c p
  · exact he
  · rw [he, ← h]

/-- Settles O28: the reset calls leave the panel in `PANEL_RESET`, and it takes the rest of INIT's calls from there. -/
theorem initWithResetLineShowsAClearImage : Obligations.InitWithResetLineShowsAClearImage := by
  unfold Obligations.InitWithResetLineShowsAClearImage
  intro s ha hc hres hw hs hf hok
  obtain ⟨hrefused, hreset, hhears⟩ := initReady_reset hres hs
  obtain ⟨hcpend, hfh, -, -⟩ := hreset.ready
  obtain ⟨p, hrx, hclear⟩ := ended_init_clear hc hhears hw hcpend hf hok
  have hdropped : settled s.cfg p = p := settled_dropped ((congrArg Panel.fh hclear.fields).trans hfh) s.cfg
  have hpanel : (ended .init s).panel = p := (congrArg Rx.panel hrx).trans hdropped
  rw [← hpanel] at hclear
  exact ⟨_, _, exec_ended rfl ha rfl hok, hreset, (congrArg Rx.refused hrx).trans hrefused, hclear.fields,
    hclear.inside, hclear.outside, fun x y hx hy => hclear.lit hc hx hy⟩

end Sys2Proof.Machine

/-! INIT without a reset line: a panel in its reset state takes it like one that INIT has reset, and one out of it is
undefined from the start on, or no longer modelled as it was (rules R252, R280, R303, R304; log 14). -/

namespace Sys2Proof.Machine

/-! ## A lost panel -/

/-- The panel's standing is `st`, its fields are those of the last draw, and `REFUSED` is `v` (rules R252, R280). -/
structure LastDrawn (c : Cfg) (st : Standing) (v : Bool) (r : Rx) : Prop where
  standing : r.panel.standing = st
  refused : r.refused = v
  drawn : drawnAt c (r.draws - 1) r.panel

section
variable {c : Cfg} {st : Standing} {v : Bool} {r : Rx}

theorem LastDrawn.undefine (hs : r.panel.standing.lost = st) (hv : r.refused = v) : LastDrawn c st v (r.undefine c) :=
  ⟨hs, hv, rfl, rfl, rfl, rfl, rfl, rfl, rfl, rfl, rfl⟩

/-- Fields drawn again, after any number of other draws. -/
theorem LastDrawn.redraw (h : LastDrawn c st v r) (d : Nat) : LastDrawn c st v (Rx.redraw c { r with draws := d }) :=
  ⟨h.standing, h.refused, rfl, rfl, rfl, rfl, rfl, rfl, rfl, rfl, rfl⟩

/-- The bytes of a transfer, each of which leaves the fields alone or draws them again. -/
theorem LastDrawn.foldl {f : Rx → Byte → Rx} (h : LastDrawn c st v r)
    (hf : ∀ r b, r.panel.standing = st → f r b = r ∨ ∃ d, f r b = Rx.redraw c { r with draws := d }) (l : List Byte) :
    LastDrawn c st v (l.foldl f r) := by
  induction l generalizing r with
  | nil => exact h
  | cons b l ih =>
    obtain he | ⟨d, he⟩ := hf r b h.standing <;> rw [List.foldl_cons, he]
    · exact ih h
    · exact ih (h.redraw d)

end

/-- An I2C transaction draws the fields of a panel no longer modelled again, if it does anything (rule R280). -/
theorem LastDrawn.i2cTransaction {w : Wires} {v : Bool} {r : Rx} (h : LastDrawn w.cfg .abandoned v r) (l : List Byte) :
    LastDrawn w.cfg .abandoned v (i2cTransaction w l r) := by
  cases l with
  | nil => exact h
  | cons a l =>
    have hstart : LastDrawn w.cfg .abandoned v (i2cStart w a r) := by
      rw [i2cStart, if_pos h.standing]
      cases w.cfg.bus with
      | i2c => exact h.redraw r.draws
      | spi => exact h
    have hbytes := hstart.foldl (f := i2cByte w) (fun r b hs => .inr ⟨r.draws, i2cByte_abandoned w r b hs⟩) l
    have hstop : i2cStop (l.foldl (i2cByte w) (i2cStart w a r)) = l.foldl (i2cByte w) (i2cStart w a r) :=
      if_neg (by rw [hbytes.standing]; nofun)
    rw [Machine.i2cTransaction, hstop]
    exact hbytes

/-- An SPI byte to a panel no longer modelled: not selected, it changes nothing, else the fields are drawn again (rules
R236, R280). -/
theorem spiByte_abandoned {w : Wires} {r : Rx} (h : r.panel.standing = .abandoned) (b : Byte) :
    spiByte w r b = r ∨ ∃ d, spiByte w r b = Rx.redraw w.cfg { r with draws := d } := by
  have hlost : (rxDrawn w r).panel.standing.known = false := by
    rw [rxDrawn_panel, h]
    rfl
  have hdrawn : ∃ d, rxDrawn w r = { r with draws := d } := by
    unfold rxDrawn
    split
    · exact ⟨_, rfl⟩
    · exact ⟨r.draws, rfl⟩
  obtain ⟨d, hd⟩ := hdrawn
  by_cases hsel : w.cfg.hasCs = false ∨ w.lineCs = .lo
  · obtain ⟨hlo, hhi, hx⟩ := spiByte_selected hsel r b
    refine .inr ⟨d, ?_⟩
    rw [← hd]
    cases hdc : w.lineDc with
    | lo => exact (hlo hdc).trans (deliver_lost w .cmd _ _ hlost)
    | hi => exact (hhi hdc).trans (deliver_lost w .data _ _ hlost)
    | x => exact (hx hdc).trans (listening_lost w _ _ hlost)
  · obtain ⟨hcs, hline⟩ := not_or.1 hsel
    exact .inl (spiByte_unselected (by simpa using hcs) hline r b)

/-! ## INIT with a lost panel -/

/-- A call that sends something consists of its transfer and of actions that the panel takes no notice of (rules R143,
R150 to R154). -/
theorem SendsAt.mem_expansion {s : State} {call : TransportCall} {dc : Level} (h : SendsAt call dc) {a : BusAction}
    (ha : a ∈ expansion s call) : Quiet a ∨ (∃ l, a = .i2cTxn l) ∨ ∃ l, a = .spiXfer l := by
  cases hb : s.cfg.bus with
  | i2c =>
    have htxn : ∃ l, expansion s call = [.i2cTxn l] := by
      cases h with
      | cmd c => exact ⟨_, expansion_cmd_i2c hb c⟩
      | data l => exact ⟨_, expansion_data_i2c hb l⟩
      | dataFb p => exact ⟨_, expansion_data_i2c hb (pageBytes s p)⟩
    obtain ⟨l, hl⟩ := htxn
    rw [hl] at ha
    exact .inr (.inl ⟨l, List.mem_singleton.1 ha⟩)
  | spi =>
    have hload : callLoad s.cfg call ≠ 0 := by
      cases h with
      | cmd _ | data _ | dataFb _ => simp [callLoad, hb]
    obtain ⟨dc, l, he⟩ := expansion_of_send hb hload
    rw [he, spiActions_eq] at ha
    obtain ha | ha := List.mem_append.1 ha
    · exact .inl (spiSelect_quiet ha)
    · obtain rfl | ha := List.mem_cons.1 ha
      · exact .inr (.inr ⟨l, rfl⟩)
      · split at ha
        · exact .inl (List.mem_singleton.1 ha ▸ quiet_cs true)
        · cases ha

/-- What the block does on its side of the bus does not touch the panel. -/
theorem blockDrives_panel (a : BusAction) (s : State) :
    CallFrame s (blockDrives a (emit a s)) ∧ (blockDrives a (emit a s)).rx = s.rx := by
  cases a with
  | pin line lv => cases line <;> exact ⟨by constructor <;> rfl, rfl⟩
  | wait _ | i2cTxn _ | spiCfg _ | spiXfer _ => exact ⟨by constructor <;> rfl, rfl⟩

/-- An INIT without a reset line whose panel is lost: undefined, or no longer modelled (rules R280, R303). -/
structure Adrift (st : Standing) (v : Bool) (s : State) : Prop where
  lost : st = .undefined ∨ st = .abandoned
  op : curOp s = 0x08
  noLine : s.cfg.hasRes = false
  rx : LastDrawn s.cfg st v s.rx

section
variable {st : Standing} {v : Bool} {s : State}

theorem Adrift.of_frame {t : State} (h : Adrift st v s) (hf : CallFrame s t) (hrx : LastDrawn s.cfg st v t.rx) :
    Adrift st v t :=
  ⟨h.lost, (congrArg opcOf hf.cur).trans h.op, (congrArg Cfg.hasRes hf.cfg).trans h.noLine, hf.cfg ▸ hrx⟩

/-- Rule R303 stands against such an INIT while the panel is undefined, not once it is no longer modelled (log 14). -/
theorem Adrift.unsupported (h : Adrift st v s) : unsupported s = (st == .undefined) := by
  simp [Machine.unsupported, h.op, h.noLine, isDeviceOp, ← h.rx.standing]

/-- What the panel makes of a bus action that sends or prepares something. -/
theorem Adrift.panelRx (h : Adrift st v s) {a : BusAction}
    (ha : Quiet a ∨ (∃ l, a = .i2cTxn l) ∨ ∃ l, a = .spiXfer l) : LastDrawn s.cfg st v (panelRx a s) := by
  have hu := h.unsupported
  obtain ⟨rfl | rfl, -, -, hrx⟩ := h
  · have hdraw : Machine.panelRx a s = s.rx.undefine s.cfg := if_pos hu
    rw [hdraw]
    exact .undefine (congrArg Standing.lost hrx.standing) hrx.refused
  · unfold Machine.panelRx
    rw [if_neg (ne_true_of_eq_false hu)]
    obtain (⟨m, rfl⟩ | ⟨lv, rfl⟩ | ⟨lv, rfl⟩) | ⟨l, rfl⟩ | ⟨l, rfl⟩ := ha
    · exact hrx
    · exact hrx
    · exact hrx
    · exact LastDrawn.i2cTransaction (w := s.wires) hrx l
    · exact hrx.foldl (fun r b hs => spiByte_abandoned (w := s.wires) hs b) l

theorem Adrift.perform (h : Adrift st v s) {a : BusAction} (ha : Quiet a ∨ (∃ l, a = .i2cTxn l) ∨ ∃ l, a = .spiXfer l) :
    Adrift st v (perform a s) := by
  obtain ⟨hfr, hrx⟩ := blockDrives_panel a s
  have hblock : Adrift st v (blockDrives a (emit a s)) := h.of_frame hfr (hrx ▸ h.rx)
  refine h.of_frame (perform_frame a s).call ?_
  rw [perform_rx, ← hfr.cfg]
  exact hblock.panelRx ha

theorem Adrift.succeed (h : Adrift st v s) {a : BusAction} (ha : Quiet a ∨ (∃ l, a = .i2cTxn l) ∨ ∃ l, a = .spiXfer l)
    (hok : a.fallible = true → s.answersOk 1) : Adrift st v (succeed s a) := by
  unfold Machine.succeed
  split
  · have hrx : (takeAnswer s).rx = s.rx := by simp [State.rx, nextAnswer_ok (hok ‹_›)]
    exact (h.of_frame (takeAnswer_frame s).call (hrx ▸ h.rx)).perform ha
  · exact h.perform ha

theorem Adrift.succeedAll (h : Adrift st v s) {acts : List BusAction}
    (ha : ∀ a ∈ acts, Quiet a ∨ (∃ l, a = .i2cTxn l) ∨ ∃ l, a = .spiXfer l) (hok : s.answersOk (fallibleCount acts)) :
    Adrift st v (succeedAll acts s) := by
  induction acts generalizing s with
  | nil => exact h
  | cons a acts ih =>
    obtain ⟨hfirst, hrest⟩ := List.forall_mem_cons.1 ha
    refine ih (h.succeed hfirst fun hf => ?_) hrest (answersOk_succeed hok)
    exact answersOk_first hf hok

theorem Adrift.runCall (h : Adrift st v s) {call : TransportCall} {dc : Level} (hs : SendsAt call dc)
    (hok : s.answersOk (callLoad s.cfg call)) : Adrift st v (runCall s call) := by
  have hacts := h.succeedAll (fun _ => hs.mem_expansion) (by rwa [fallibleCount_expansion])
  have hrx := hacts.rx
  rw [(succeedAll_frame _ s).cfg] at hrx
  refine h.of_frame (runCall_frame s call) ?_
  rwa [runCall_rx, internalEffect_noFb hs.noFb]

theorem Adrift.runCalls (h : Adrift st v s) {calls : List TransportCall} (hs : ∀ call ∈ calls, ∃ dc, SendsAt call dc)
    (hok : s.answersOk (busLoad s.cfg calls)) : Adrift st v (runCalls calls s) := by
  induction calls generalizing s with
  | nil => exact h
  | cons call calls ih =>
    obtain ⟨⟨dc, hcall⟩, hrest⟩ := List.forall_mem_cons.1 hs
    obtain ⟨hfirst, hlater⟩ := answersOk_runCall hok
    exact ih (h.runCall hcall hfirst) hrest hlater

end

/-! ## Without a reset line -/

/-- The start of an INIT without a reset line leaves a panel in its reset state, and undefines any other (rule R303). -/
theorem begun_init_noLine_rx {s : State} (hres : s.cfg.hasRes = false) :
    (begun .init s).rx = if s.panel.standing = .inReset then s.rx else s.rx.undefine s.cfg := by
  have hstart : begun .init s = initStart (beginOp (opWord .init) (initCalls s.cfg) s) := rfl
  rw [hstart, initStart, if_neg (by simp [hres])]
  dsimp only
  split
  · rw [if_pos ‹_›]
    rfl
  · rw [if_neg ‹_›]
    rfl

/-- Before its first command an INIT without a reset line has done nothing to the panel but at its start. -/
theorem initReady_noLine {s : State} (hres : s.cfg.hasRes = false) :
    (initReady s).rx = (begun .init s).rx ∧ (initReady s).wires = s.wires := by
  obtain ⟨hrx, hwires⟩ := initReady_device s
  have hnil : resetCalls s.cfg = [] := if_neg (by simp [hres])
  rw [hnil] at hrx hwires
  exact ⟨hrx, hwires.trans (begun_wires .init s)⟩

/-- A panel that an INIT without a reset line finds in its reset state (rule R304). -/
theorem ended_init_inReset {s : State} (hc : constructionCause s.cfg = none) (hres : s.cfg.hasRes = false)
    (hw : s.wired) (hs : s.panel.standing = .inReset) (hp : s.panel.cpend = false) (hh : s.hears) (hf : s.fits)
    (hok : s.answersOk (busLoad s.cfg (opCalls .init s))) :
    ∃ p, (ended .init s).rx = withPanel s (settled s.cfg p) ∧ ClearImage s.cfg s.panel p := by
  obtain ⟨hrx, hwires⟩ := initReady_noLine hres
  rw [begun_init_noLine_rx hres, if_pos hs] at hrx
  have hpanel : (initReady s).panel = s.panel := congrArg Rx.panel hrx
  have hhears : (initReady s).hears := by
    unfold State.hears
    rwa [hwires, hrx, hpanel]
  obtain ⟨p, hend, hclear⟩ := ended_init_clear hc hhears hw (hpanel ▸ hp) hf hok
  exact ⟨p, hend.trans (congrArg (fun r => r.onPanel fun _ => settled s.cfg p) hrx), hpanel ▸ hclear⟩

/-- A panel that an INIT without a reset line finds out of its reset state (rules R252, R303; log 14). -/
theorem ended_init_lost {s : State} (hres : s.cfg.hasRes = false) (hs : s.panel.standing ≠ .inReset)
    (hok : s.answersOk (busLoad s.cfg (opCalls .init s))) :
    LastDrawn s.cfg s.panel.standing.lost s.refused (ended .init s).rx := by
  obtain ⟨hrx, -⟩ := initReady_noLine hres
  rw [begun_init_noLine_rx hres, if_neg hs] at hrx
  have hcfg := initReady_cfg s
  have hready : Adrift s.panel.standing.lost s.refused (initReady s) := by
    refine ⟨?_, (runCalls_curOp ..).trans (begun_curOp (i := .init) rfl s), hcfg ▸ hres, ?_⟩
    · cases s.panel.standing <;> simp [Standing.lost]
    · rw [hcfg, hrx]
      exact .undefine rfl rfl
  have hsends : ∀ call ∈ TransportCall.cmd (dispCmd true) :: showCalls s.cfg, ∃ dc, SendsAt call dc :=
    List.forall_mem_cons.2 ⟨⟨_, .cmd _⟩, fun _ => sendsAt_pagesCalls⟩
  have hend := (hready.runCalls hsends (hcfg ▸ initReady_answersOk hok)).rx
  rwa [(runCalls_frame _ (initReady s)).cfg, hcfg, ← ended_init_rx] at hend

/-- Settles O29: the start of INIT decides whether the panel takes its calls by the rules or is lost to them. -/
theorem initWithoutResetLineNeedsAResetPanel : Obligations.InitWithoutResetLineNeedsAResetPanel := by
  unfold Obligations.InitWithoutResetLineNeedsAResetPanel
  intro s ha hc hres hw hok
  obtain ⟨-, -, -, -, -, hhstat⟩ := ended_endedOk .init s
  refine ⟨_, exec_ended rfl ha rfl hok, hhstat, fun hs hp hh hf => ?_, fun hs => ?_⟩
  · obtain ⟨p, hrx, hclear⟩ := ended_init_inReset hc hres hw hs hp hh hf hok
    have hpanel : (ended .init s).panel = settled s.cfg p := congrArg Rx.panel hrx
    refine ⟨?_, fun pg x hpg hx => ?_, fun pg col hout => ?_⟩
    · rw [hrx, hpanel, settled_pram, ← hclear.fields]
    · rw [hpanel, pramByte_settled]
      exact hclear.inside pg x hpg hx
    · rw [hpanel, pramByte_settled]
      exact hclear.outside pg col hout
  · obtain ⟨hstanding, hrefused, hdrawn⟩ := ended_init_lost hres hs hok
    refine ⟨?_, hdrawn, hrefused⟩
    rw [rx_panel] at hstanding
    rw [hstanding]
    exact lost_known _

end Sys2Proof.Machine
